-- ==== Sys2Proof/Word.lean ====
section
/-!
DEFINITION. The values the SLIP framer moves: bytes, frames, the four byte constants, and the inputs that select its
operations (the mode with a byte, the channel's answers, the caller's port events, the turns of the two agents).
-/

namespace Sys2Proof

/-- A byte: an 8-bit value, compared only as a whole (00_scope R9). -/
abbrev Byte := BitVec 8

/-- A completed frame, delimiters included, oldest byte first (10_state R28, 20_memory R51). -/
abbrev Frame := List Byte

/-- `DELIM`, the start and end delimiter byte (00_scope R6). -/
abbrev DELIM : Byte := 0xC0#8

/-- `ESC`, the escape byte (00_scope R6). -/
abbrev ESC : Byte := 0xDB#8

/-- `SUB_DELIM`, which after `ESC` stands for `DELIM` (00_scope R6). -/
abbrev SUB_DELIM : Byte := 0xDC#8

/-- `SUB_ESC`, which after `ESC` stands for `ESC` (00_scope R6). -/
abbrev SUB_ESC : Byte := 0xDD#8

/-- The decoder's mode, which selects how the next byte is read (10_state R25). -/
inductive Mode where
  | idle    -- between frames
  | body    -- inside a frame
  | escape  -- inside a frame, after the escape byte
  deriving DecidableEq, Repr, Inhabited

/-- The five classes of byte values (30_encoding R72). -/
inductive ByteClass where
  | delim
  | esc
  | subDelim
  | subEsc
  | other
  deriving DecidableEq, Repr

/-- What the channel answers when the engine asks it for input (10_state R36). -/
inductive Answer where
  /-- a byte is available and is handed over -/
  | byte (b : Byte)
  /-- the bounded read timed out with no byte available -/
  | nodata
  /-- the serial source has become unreadable -/
  | ioerr
  deriving DecidableEq, Repr, Inhabited

/-- An event the caller issues on the encoder, control or queue port (30_encoding R76, R77). -/
inductive CallerEvent where
  | frameStart            -- start of a frame, to the encoder
  | payload (b : Byte)    -- a payload byte, to the encoder
  | frameFinish           -- end of a frame, to the encoder
  | start                 -- construct the receiver
  | stopReq               -- request a stop
  | join                  -- join the engine
  | drop                  -- drop the receiver
  | flush                 -- flush the receive pipeline
  | pop                   -- poll the frame queue
  deriving DecidableEq, Repr, Inhabited

/-- Everything that selects an operation: the block's instruction "encodings" (30_encoding R74, R76, R77). -/
inductive Input where
  /-- a byte taken by the engine in a decoder mode (R74) -/
  | rx (m : Mode) (b : Byte)
  /-- the channel's answer to a read (R77) -/
  | answer (a : Answer)
  /-- the engine observes CANCEL = 1 (R77) -/
  | cancelSeen
  /-- an event issued by the caller (R76, R77) -/
  | caller (e : CallerEvent)
  deriving DecidableEq, Repr

/-- Who moves at a step. The spec fixes no order between the agents (20_memory R60; 42_receiver R134 a). -/
inductive Turn where
  /-- the engine reads the channel once -/
  | engine
  /-- the engine looks at the cancellation flag -/
  | ack
  /-- the caller takes its next step -/
  | caller
  /-- a reader other than the engine takes `n` items from the channel (42_receiver R143, R144) -/
  | outsider (n : Nat)
  deriving DecidableEq, Repr, Inhabited

end Sys2Proof
end

