-- ==== Sys2Proof/Config.lean ====
section
/-!
DEFINITION. What is fixed for one block (its parameters, 00_scope R7 and 93 U1 to U10) and the values the spec leaves
free. A free value is an opaque constant applied to the number of free values drawn so far: nothing can be proved of it.
-/

namespace Sys2Proof.Config

/-- The parameters a block is built with. `none` is the spec's "unbounded". -/
structure Params where
  /-- FRAME_MAX, the largest number of bytes BUF may hold (00_scope R7, 93 U1) -/
  frameMax : Option Nat
  /-- FQ_DEPTH, the largest number of frames FQ may hold (00_scope R7, 93 U2) -/
  fqDepth : Option Nat
  /-- REEXAMINE_OFFENDER: the delimiter that ends an escape sequence in error also opens a frame (93 U7) -/
  reexamineOffender : Bool
  /-- FLUSH_CLEARS_DECODER: C.FLUSH also abandons the partial frame (93 U8) -/
  flushClearsDecoder : Bool
  deriving DecidableEq, Repr

/-- The values the spec takes: unbounded, unbounded, the offender consumed (D3), the flush clearing the decoder (D11). -/
def Params.default : Params :=
  { frameMax := none, fqDepth := none, reexamineOffender := false, flushClearsDecoder := true }

/-- READ_TIMEOUT. OPEN; no rule depends on it (00_scope R7, 93 U10), and no definition of the model reads it. -/
opaque readTimeout : Nat

/-- IDLE_SLEEP. OPEN; no rule depends on it (00_scope R7, 93 U10), and no definition of the model reads it. -/
opaque idleSleep : Nat

/-- READ_WINDOW less one (the window is at least 1). OPEN; the rules hold for every value (00_scope R7, 10_state R43). -/
opaque readWindowPred : Nat

/-- The named fields of the read-only status view (10_state R38). -/
inductive StatusField where
  | life       -- ST.LIFE
  | cancel     -- ST.CANCEL
  | openF      -- ST.OPEN
  | escf       -- ST.ESCF
  | fqEmpty    -- ST.FQ_EMPTY
  | fqClosed   -- ST.FQ_CLOSED
  | txOpen     -- ST.TX_OPEN
  deriving DecidableEq, Repr

/-- Where a status field would be found: an address and the positions of its highest and lowest bit there. -/
structure FieldPlace where
  address : Nat
  hi : Nat
  lo : Nat
  deriving DecidableEq, Repr, Inhabited

/-- CSR_LAYOUT: the address and bit positions of each status field, if it has any. OPEN, none assigned; no rule depends on
it (00_scope R7, 10_state R38, 93 U11), and no definition of the model reads it: the fields are reached by name. -/
opaque csrLayout : StatusField → Option FieldPlace

/-- FREE VALUE: who moves next where no turn is placed (20_memory R60, 42_receiver R134 a; log 2). -/
opaque freeTurn : Nat → Turn

/-- FREE VALUE: the channel's answer where none is placed (10_state R36; log 3). -/
opaque freeAnswer : Nat → Answer

/-- FREE VALUE: what the caller issues where nothing is placed (10_state R41; log 4). -/
opaque freeCaller : Nat → CallerEvent

/-- FREE VALUE: how much of the not yet taken input a buffer-clear discards (42_receiver R139 e; log 8). -/
opaque freeDiscard : Nat → Nat

end Sys2Proof.Config
end

