-- ==== Sys2Proof/Syntax.lean ====
section
/-!
DEFINITION. The 23 operations of spec/opcode_table.json, one constructor per row, in the table's order.
-/

namespace Sys2Proof

/-- An operation of the block. The operand, where there is one, is the byte taken or the payload byte. -/
inductive Instr where
  /-- D.OPEN: open a frame (R91) -/
  | dOpen
  /-- D.JUNK b: a byte outside any frame (R92) -/
  | dJunk (b : Byte)
  /-- D.ESC: take the escape prefix (R93) -/
  | dEsc
  /-- D.CLOSE: complete the frame (R94) -/
  | dClose
  /-- D.LIT b: append a literal body byte (R95) -/
  | dLit (b : Byte)
  /-- D.XDELIM: complete the escape sequence for the delimiter value (R96) -/
  | dXdelim
  /-- D.XESC: complete the escape sequence for the escape value (R97) -/
  | dXesc
  /-- D.BADESC b: an illegal second byte of an escape sequence (R98) -/
  | dBadesc (b : Byte)
  /-- E.START: begin a frame (R116) -/
  | eStart
  /-- E.XDELIM: emit the escape sequence for the delimiter value (R118) -/
  | eXdelim
  /-- E.XESC: emit the escape sequence for the escape value (R119) -/
  | eXesc
  /-- E.LIT b: emit a payload byte that needs no escaping (R117) -/
  | eLit (b : Byte)
  /-- E.END: finish the frame (R120) -/
  | eEnd
  /-- RX.BYTE: take the byte `b` and decode it (R131) -/
  | rxByte (b : Byte)
  /-- RX.IDLE: nothing to read (R132) -/
  | rxIdle
  /-- RX.IOERR: the serial source has failed (R133) -/
  | rxIoerr
  /-- RX.STOPACK: the engine sees the cancellation flag and ends (R134) -/
  | rxStopack
  /-- C.START: construct the engine, the block's reset (R135) -/
  | cStart
  /-- C.STOPREQ: ask the engine to stop (R136) -/
  | cStopreq
  /-- C.JOIN: wait for the engine to have ended, then take the port (R137) -/
  | cJoin
  /-- C.DROP: destroy the engine instance (R138) -/
  | cDrop
  /-- C.FLUSH: empty the receive pipeline (R139) -/
  | cFlush
  /-- Q.POP: poll the frame queue once (R140) -/
  | qPop
  deriving DecidableEq, Repr

end Sys2Proof
end

