-- ==== Sys2Proof/WellFormed.lean ====
section
/-!
DEFINITION. When an operation with an operand is well formed: the operand is a byte that selects it (30_encoding R74, R76).
-/

namespace Sys2Proof

/-- An operation is well formed when its operand is one of the byte values that select it: D.JUNK takes every byte but
the delimiter (R92), D.LIT and E.LIT every byte but the delimiter and the escape byte (R95, R117), D.BADESC every byte
but the two legal second bytes (R98), RX.BYTE every byte (R131). -/
def Instr.wellFormed : Instr → Bool
  | .dJunk b => b != DELIM
  | .dLit b => b != DELIM && b != ESC
  | .dBadesc b => b != SUB_DELIM && b != SUB_ESC
  | .eLit b => b != DELIM && b != ESC
  | .dOpen | .dEsc | .dClose | .dXdelim | .dXesc | .eStart | .eXdelim | .eXesc | .eEnd => true
  | .rxByte _ | .rxIdle | .rxIoerr | .rxStopack => true
  | .cStart | .cStopreq | .cJoin | .cDrop | .cFlush | .qPop => true

end Sys2Proof
end

