-- ==== Sys2Proof/Decode.lean ====
section
/-!
DEFINITION. The selection of operations: from a byte and the mode (30_encoding R74), from an event of the encoder (R76)
and from an event of the other ports (R77); the encoder of operations back into what selects them; and the reading of an
8-bit word of spec/opcode_table.json.
-/

namespace Sys2Proof

/-- The class of a byte, by comparing the whole byte with the four constants (30_encoding R72). -/
def classOf (b : Byte) : ByteClass :=
  if b = DELIM then .delim
  else if b = ESC then .esc
  else if b = SUB_DELIM then .subDelim
  else if b = SUB_ESC then .subEsc
  else .other

/-- The decode table, cell by cell: 3 modes by 5 classes (30_encoding R74). -/
def decodeRx (m : Mode) (b : Byte) : Instr :=
  match m, classOf b with
  | .idle, .delim => .dOpen
  | .idle, .esc => .dJunk b
  | .idle, .subDelim => .dJunk b
  | .idle, .subEsc => .dJunk b
  | .idle, .other => .dJunk b
  | .body, .delim => .dClose
  | .body, .esc => .dEsc
  | .body, .subDelim => .dLit b
  | .body, .subEsc => .dLit b
  | .body, .other => .dLit b
  | .escape, .delim => .dBadesc b
  | .escape, .esc => .dBadesc b
  | .escape, .subDelim => .dXdelim
  | .escape, .subEsc => .dXesc
  | .escape, .other => .dBadesc b

/-- The encoder operation a payload byte selects (30_encoding R76). No payload byte is refused (R79). -/
def decodeTx (b : Byte) : Instr :=
  match classOf b with
  | .delim => .eXdelim
  | .esc => .eXesc
  | .subDelim | .subEsc | .other => .eLit b

/-- The operation a channel answer selects (30_encoding R77, 10_state R36). -/
def decodeAnswer : Answer → Instr
  | .byte b => .rxByte b
  | .nodata => .rxIdle
  | .ioerr => .rxIoerr

/-- The operation an event of the caller selects (30_encoding R76, R77). -/
def decodeCaller : CallerEvent → Instr
  | .frameStart => .eStart
  | .payload b => decodeTx b
  | .frameFinish => .eEnd
  | .start => .cStart
  | .stopReq => .cStopreq
  | .join => .cJoin
  | .drop => .cDrop
  | .flush => .cFlush
  | .pop => .qPop

/-- The operation an input selects. It is total: there is no illegal or reserved encoding (30_encoding R78, R79). -/
def decode : Input → Instr
  | .rx m b => decodeRx m b
  | .answer a => decodeAnswer a
  | .cancelSeen => .rxStopack
  | .caller e => decodeCaller e

/-- The input that selects an operation, from the same tables (30_encoding R74, R76, R77). -/
def encode : Instr → Input
  | .dOpen => .rx .idle DELIM
  | .dJunk b => .rx .idle b
  | .dEsc => .rx .body ESC
  | .dClose => .rx .body DELIM
  | .dLit b => .rx .body b
  | .dXdelim => .rx .escape SUB_DELIM
  | .dXesc => .rx .escape SUB_ESC
  | .dBadesc b => .rx .escape b
  | .eStart => .caller .frameStart
  | .eXdelim => .caller (.payload DELIM)
  | .eXesc => .caller (.payload ESC)
  | .eLit b => .caller (.payload b)
  | .eEnd => .caller .frameFinish
  | .rxByte b => .answer (.byte b)
  | .rxIdle => .answer .nodata
  | .rxIoerr => .answer .ioerr
  | .rxStopack => .cancelSeen
  | .cStart => .caller .start
  | .cStopreq => .caller .stopReq
  | .cJoin => .caller .join
  | .cDrop => .caller .drop
  | .cFlush => .caller .flush
  | .qPop => .caller .pop

/-- Why a word of the opcode table names no operation. -/
inductive WordError where
  /-- the word is not one byte: every row with bits has exactly eight (30_encoding R70, R84) -/
  | notOneByte (nbits : Nat)
  deriving DecidableEq, Repr

/-- The mode in which a bare byte is read as a row of the table: the first mode, in the table's order, that has a row
matching the whole byte (mask 0xFF), else IDLE. DESIGN CHOICE (log 11): a byte alone does not name its mode (R73). -/
def tableMode (b : Byte) : Mode :=
  match classOf b with
  | .delim => .idle
  | .esc => .body
  | .subDelim => .escape
  | .subEsc => .escape
  | .other => .idle

/-- The operation a word of the table stands for, or why none: the byte read in the mode `tableMode` (log 11). -/
def decodeWord (nbits w : Nat) : Except WordError Instr :=
  if nbits = 8 then .ok (decodeRx (tableMode (BitVec.ofNat 8 w)) (BitVec.ofNat 8 w)) else .error (.notOneByte nbits)

/-- The instruction the decoder reads from a word of spec/opcode_table.json (bit 0 least significant). -/
def decodeTableWord (nbits w : Nat) : Option Instr :=
  match decodeWord nbits w with
  | .ok i => some i
  | .error _ => none

end Sys2Proof
end

