-- ==== Sys2Proof/Machine/State.lean ====
section
/-!
DEFINITION. The machine's state as plain data: the ten elements of 10_state R20, the environment streams the block is
connected to (R35, R41), and the model's own bookkeeping; the reasons a step can stop; the state at power-up (R44).
-/

namespace Sys2Proof.Machine

/-- Where the engine is in its life (10_state R29). -/
inductive Life where
  | absent      -- no engine exists
  | running     -- the receive loop is running
  | stopped     -- the loop has seen the cancellation flag and ended
  | terminated  -- the loop has ended on an I/O error
  deriving DecidableEq, Repr

/-- Who may read the serial channel (10_state R34). -/
inductive PortOwner where
  | block
  | external
  deriving DecidableEq, Repr

/-- The kinds of error report, and all that a report records (60_exceptions R155, R159). -/
inductive Report where
  | unexpectedByte
  | invalidEscape
  | ioError
  deriving DecidableEq, Repr

/-- What one poll of the frame queue returns (42_receiver R140). -/
inductive PollResult where
  | frame (f : Frame)
  | empty
  | closed
  deriving DecidableEq, Repr

/-- The result of `decode_step`: the new decoder registers and perhaps a completed frame, or an error kind (40_decoder R99). -/
inductive DecodeResult where
  | ok (openF escf : Bool) (buf : List Byte) (completed : Option Frame)
  | err (kind : Report)
  deriving DecidableEq, Repr

/-- Why the machine could stop with a fault: never. The spec uses no fault and no stuck state (93, "Treatments";
60_exceptions R175: a framing error is a normal step), so there is no constructor and no one raises one. Safe. -/
inductive Fault where
  deriving DecidableEq, Repr

/-- Why there is no step: the spec gives the situation no meaning (00_scope R12, `refuse`). Every one is safe: a claim
cannot be proved across it. -/
inductive Refusal where
  /-- An operation without a meaning yet, by its mnemonic; raised by `exec` only, and by no arm of this model. Safe. -/
  | notModelled (mnemonic : String)
  /-- A decoder operation that the mode and the byte do not select, or E.LIT with a byte that selects another encoder
  operation (R90, R74, R76); raised by the D. operations and E.LIT. Safe. -/
  | notSelected
  /-- An engine step whose enabling condition does not hold (R130, R141); raised by the RX. operations. Safe. -/
  | engineNotEnabled
  /-- A control or queue operation while LIFE = ABSENT (R136 to R140, 93 U5); raised by C.STOPREQ, C.JOIN, C.DROP,
  C.FLUSH, Q.POP. Safe. -/
  | noEngine
  /-- C.START while an engine exists or the port is not held (R135, D24); raised by C.START. Safe. -/
  | cannotStart
  /-- BUF would grow beyond a finite FRAME_MAX (R54, R150); raised by D.OPEN, D.LIT, D.XDELIM, D.XESC, RX.BYTE and,
  where the offender is re-examined, D.BADESC. Safe. -/
  | frameTooLong
  /-- FQ would grow beyond a finite FQ_DEPTH (R55, R150); raised by D.CLOSE, RX.BYTE. Safe. -/
  | queueFull
  /-- An encoder operation out of sequence (R126); raised by the E. operations. Safe. -/
  | encoderOutOfSequence
  /-- A reader other than the engine acts on the channel while PORT_OWNER = BLOCK (R144, R192, 93 U3); raised by the
  step of an outsider, by no operation. Safe. -/
  | secondReader
  deriving DecidableEq, Repr

/-- The machine's state. The first ten fields are the complete state of the block (10_state R20). -/
structure State where
  /-- OPEN (R22) -/
  openF : Bool
  /-- ESCF (R23) -/
  escf : Bool
  /-- BUF, oldest byte first (R24) -/
  buf : List Byte
  /-- FQ, head first (R27) -/
  fq : List Frame
  /-- LIFE (R29) -/
  life : Life
  /-- CANCEL (R30) -/
  cancel : Bool
  /-- ELOG, oldest report first (R32) -/
  elog : List Report
  /-- TX_OPEN (R33) -/
  txOpen : Bool
  /-- PORT_OWNER (R34) -/
  portOwner : PortOwner
  /-- TX_OUT, oldest byte first (R37) -/
  txOut : List Byte
  /-- RX_IN, environment: the answers the channel will give, oldest first; past its end they are free (R35, R36; log 3) -/
  rxIn : List Answer
  /-- environment: what the caller has in progress and issues next, in order; past its end it is free (R41; log 4) -/
  callerOps : List CallerEvent
  /-- the results Q.POP has returned, oldest first (R140, R148; log 6) -/
  polls : List PollResult
  /-- the model's own: who moves at the next steps; past its end it is free (R60; log 2) -/
  turns : List Turn
  /-- the model's own: how many free values have been drawn (log 5) -/
  draws : Nat
  /-- the parameters the block was built with, written by no step (00_scope R7; log 7) -/
  cfg : Config.Params
  deriving DecidableEq, Repr

/-- The state at power-up: the left column of 10_state R44, no input placed, the spec's parameters (log 1). -/
def State.reset : State :=
  { openF := false, escf := false, buf := [], fq := [], life := .absent, cancel := false, elog := [], txOpen := false,
    portOwner := .external, txOut := [], rxIn := [], callerOps := [], polls := [], turns := [], draws := 0,
    cfg := Config.Params.default }

end Sys2Proof.Machine
end

