-- ==== Sys2Proof/Machine/Flags.lean ====
section
/-!
DEFINITION. What is derived from the flags: the decoder mode (10_state R25), the enabling conditions of the engine's
steps (42_receiver R131 to R134), and the read-only status view (10_state R38).
-/

namespace Sys2Proof.Machine

/-- The decoder mode. OPEN is tested first, so that ESCF is ignored while no frame is open (10_state R25, R26; log 18). -/
def State.mode (s : State) : Mode :=
  if s.openF then (if s.escf then .escape else .body) else .idle

/-- The engine may read the channel: LIFE = RUNNING and PORT_OWNER = BLOCK (42_receiver R131 to R133, 10_state R34). -/
def State.canRead (s : State) : Bool :=
  decide (s.life = .running) && decide (s.portOwner = .block)

/-- The engine may end on the cancellation flag: LIFE = RUNNING and CANCEL = 1 (42_receiver R134). -/
def State.canStop (s : State) : Bool :=
  decide (s.life = .running) && s.cancel

/-- The engine has ended but still exists: LIFE is STOPPED or TERMINATED (10_state R29). -/
def State.ended (s : State) : Bool :=
  decide (s.life = .stopped) || decide (s.life = .terminated)

/-- `ST.LIFE` (R38). -/
def State.stLife (s : State) : Life := s.life

/-- `ST.CANCEL` (R38). -/
def State.stCancel (s : State) : Bool := s.cancel

/-- `ST.OPEN` (R38). -/
def State.stOpen (s : State) : Bool := s.openF

/-- `ST.ESCF` (R38). -/
def State.stEscf (s : State) : Bool := s.escf

/-- `ST.FQ_EMPTY` (R38). -/
def State.stFqEmpty (s : State) : Bool := s.fq.isEmpty

/-- `ST.FQ_CLOSED` (R38). -/
def State.stFqClosed (s : State) : Bool := s.ended && s.fq.isEmpty

/-- `ST.TX_OPEN` (R38). -/
def State.stTxOpen (s : State) : Bool := s.txOpen

end Sys2Proof.Machine
end

