-- ==== Sys2Proof/Machine/Ops.lean ====
section
/-!
DEFINITION. The named operations over the state, which the meanings are written with: the storage primitives (00_scope
R12, 20_memory R53 to R56), taking an error (60_exceptions R163, R164) and resynchronising from it (R165), and what
brings the next operation to the machine: the turn, the channel's answer, the caller's event.
-/

namespace Sys2Proof.Machine

/-- What an operation answers: a next state, or the reason there is no step. -/
abbrev Result := Host.Outcome State Fault Refusal

/-- One operation after another: the second runs on the state the first leaves. -/
def andThen (r : Result) (f : State → Result) : Result :=
  match r with
  | .next s => f s
  | .fault e => .fault e
  | .refused e => .refused e

/-- The next state, where there is one. -/
def nextState? (r : Result) : Option State :=
  match r with
  | .next s => some s
  | .fault _ => none
  | .refused _ => none

/-- The reason for a refusal, where there is one. -/
def refusal? (r : Result) : Option Refusal :=
  match r with
  | .next _ => none
  | .fault _ => none
  | .refused e => some e

/-- `n` elements fit in a store with this limit; no limit fits all (00_scope R7). -/
def fits (limit : Option Nat) (n : Nat) : Bool :=
  match limit with
  | none => true
  | some m => decide (n ≤ m)

/-! ### The decoder registers -/

/-- The decoder registers set as a whole. -/
def State.setDecoder (o x : Bool) (u : List Byte) (s : State) : State :=
  { s with openF := o, escf := x, buf := u }

/-- `OPEN <- 0; ESCF <- 0; BUF <- []`: the clear shared by the error entry and the control operations (R163, R135 to R139). -/
def State.clearDecoder (s : State) : State := s.setDecoder false false []

/-- `ESCF <- v`. -/
def State.setEscf (v : Bool) (s : State) : State := { s with escf := v }

/-- The decoder registers set as a whole, where the buffer fits in FRAME_MAX (42_receiver R131, R150). -/
def storeDecoder (o x : Bool) (u : List Byte) (s : State) : Result :=
  if fits s.cfg.frameMax u.length then .next (s.setDecoder o x u) else .refused .frameTooLong

/-- `BufAppend(v)`: `BUF <- BUF ++ [v]`, refused where it would exceed FRAME_MAX (20_memory R54, 42_receiver R150). -/
def bufAppend (v : Byte) (s : State) : Result :=
  if fits s.cfg.frameMax (s.buf.length + 1) then .next { s with buf := s.buf ++ [v] } else .refused .frameTooLong

/-- A delimiter opens a new partial frame that contains just the delimiter (40_decoder R91). It is also the return from
a framing error: resynchronisation on the next delimiter (60_exceptions R165). -/
def openFrame (s : State) : Result := storeDecoder true false [DELIM] s

/-! ### The queue, the log and the encoder's output -/

/-- `FQ <- FQ ++ [f]`. -/
def State.enqueue (f : Frame) (s : State) : State := { s with fq := s.fq ++ [f] }

/-- `FqPush(f)`, refused where it would exceed FQ_DEPTH (20_memory R55, 42_receiver R150). -/
def fqPush (f : Frame) (s : State) : Result :=
  if fits s.cfg.fqDepth (s.fq.length + 1) then .next (s.enqueue f) else .refused .queueFull

/-- `Report(k)`: `ELOG <- ELOG ++ [k]` (10_state R32). -/
def State.report (k : Report) (s : State) : State := { s with elog := s.elog ++ [k] }

/-- `TxEmit(b)`: `TX_OUT <- TX_OUT ++ [b]` (10_state R37). -/
def State.txEmit (b : Byte) (s : State) : State := { s with txOut := s.txOut ++ [b] }

/-- `TX_OPEN <- v` (10_state R33). -/
def State.setTxOpen (v : Bool) (s : State) : State := { s with txOpen := v }

/-- A result of `Q.POP` is handed to the caller (42_receiver R140, R148; log 6). -/
def State.handOver (r : PollResult) (s : State) : State := { s with polls := s.polls ++ [r] }

/-! ### Taking an error -/

/-- The framing-error entry: `Report(k)`, the partial frame abandoned, the byte `b` consumed (60_exceptions R163). With
REEXAMINE_OFFENDER (93 U7, default false) an offending delimiter then opens a frame (log 9). -/
def framingError (k : Report) (b : Byte) (s : State) : Result :=
  if s.cfg.reexamineOffender && b == DELIM then openFrame (s.report k).clearDecoder
  else .next (s.report k).clearDecoder

/-- The I/O-error entry: report once, abandon the partial frame, end the engine (60_exceptions R164, 42_receiver R133). -/
def ioErrorEntry (s : State) : State := { (s.report .ioError).clearDecoder with life := .terminated }

/-! ### The channel and the port -/

/-- The channel's buffer-clear: it discards a prefix of what is not yet taken; which one is a free value
(42_receiver R139 e, 10_state R43; log 8). -/
def channelClear (s : State) : State :=
  { s with rxIn := s.rxIn.drop (Config.freeDiscard s.draws), draws := s.draws + 1 }

/-- A reader other than the engine takes `n` items from the channel: its right while PORT_OWNER = EXTERNAL, refused
while BLOCK (42_receiver R143, R144; 70_reset R192; log 14). -/
def outsiderReads (n : Nat) (s : State) : Result :=
  match s.portOwner with
  | .block => .refused .secondReader
  | .external => .next { s with rxIn := s.rxIn.drop n }

/-! ### What comes next -/

/-- Whose turn it is: the oldest turn placed, else a free value (20_memory R60; log 2). -/
def takeTurn (s : State) : Turn × State :=
  match s.turns with
  | t :: ts => (t, { s with turns := ts })
  | [] => (Config.freeTurn s.draws, { s with draws := s.draws + 1 })

/-- `RxTake()`: the channel's answer to one read, with the byte of a `byte` answer removed from RX_IN; where none is
placed, a free value (00_scope R12, 10_state R36; log 3). -/
def rxTake (s : State) : Answer × State :=
  match s.rxIn with
  | a :: rest => (a, { s with rxIn := rest })
  | [] => (Config.freeAnswer s.draws, { s with draws := s.draws + 1 })

/-- The caller's next operation: the one in progress, else the next it issues, else a free value (10_state R41; log 4). -/
def nextCaller (s : State) : CallerEvent × State :=
  match s.callerOps with
  | e :: rest => (e, { s with callerOps := rest })
  | [] => (Config.freeCaller s.draws, { s with draws := s.draws + 1 })

/-- What the caller still has to do before it issues anything else (42_receiver R137, R138; log 4). -/
def State.callerContinues (es : List CallerEvent) (s : State) : State := { s with callerOps := es ++ s.callerOps }

/-- What selects the operation of a turn, with the state after it has been taken: nothing where the engine has no step
enabled, since such a step "simply does not occur" (42_receiver R130; log 12). -/
def fetch (t : Turn) (s : State) : Option Input × State :=
  match t with
  | .engine => if s.canRead then (some (.answer (rxTake s).1), (rxTake s).2) else (none, s)
  | .ack => if s.canStop then (some .cancelSeen, s) else (none, s)
  | .caller => (some (.caller (nextCaller s).1), (nextCaller s).2)
  | .outsider _ => (none, s)

/-- The decoder brought into a mode with as little change as possible (for a word of the table; log 11). -/
def State.enterMode (m : Mode) (s : State) : State :=
  let opened := if s.buf.head? = some DELIM then s.buf else [DELIM]
  match m with
  | .idle => s.clearDecoder
  | .body => s.setDecoder true false opened
  | .escape => s.setDecoder true true opened

/-- The byte `b` placed so that the very next step takes it in mode `m`: a running engine that holds the port, its turn
first, the byte the oldest of RX_IN (log 11). -/
def State.placeByte (m : Mode) (b : Byte) (s : State) : State :=
  { s.enterMode m with
    life := .running, portOwner := .block, rxIn := .byte b :: s.rxIn, turns := .engine :: s.turns }

end Sys2Proof.Machine
end

