-- ==== Sys2Proof/Machine/Control.lean ====
section
/-!
DEFINITION. The five control operations of the caller (42_receiver R135 to R139) and the queue read (R140), one meaning
each. With LIFE = ABSENT all but C.START are refused.
-/

namespace Sys2Proof.Machine

/-- `C.START` (R135), the block's reset: enabled with LIFE = ABSENT and PORT_OWNER = EXTERNAL. -/
def execCStart (s : State) : Result :=
  if s.life = .absent ∧ s.portOwner = .external then
    .next { s.clearDecoder with fq := [], elog := [], cancel := false, portOwner := .block, life := .running }
  else .refused .cannotStart

/-- `C.STOPREQ` (R136): `CANCEL <- 1`. -/
def execCStopreq (s : State) : Result :=
  match s.life with
  | .absent => .refused .noEngine
  | .running | .stopped | .terminated => .next { s with cancel := true }

/-- `C.JOIN` (R137): `PORT_OWNER <- EXTERNAL` once the engine has ended; while it runs the caller waits: the operation
stays in progress and nothing else changes (log 4). -/
def execCJoin (s : State) : Result :=
  match s.life with
  | .absent => .refused .noEngine
  | .running => .next (s.callerContinues [.join])
  | .stopped | .terminated => .next { s with portOwner := .external }

/-- `C.DROP` (R138): everything of the engine is cleared, `LIFE <- ABSENT`; ELOG is kept. While the engine runs it is the
sequence C.STOPREQ, C.JOIN, C.DROP: the first is done now, the other two stay in progress (log 4). -/
def execCDrop (s : State) : Result :=
  match s.life with
  | .absent => .refused .noEngine
  | .running => .next ({ s with cancel := true }.callerContinues [.join, .drop])
  | .stopped | .terminated =>
    .next { s.clearDecoder with fq := [], cancel := false, portOwner := .external, life := .absent }

/-- `C.FLUSH` (R139): `FQ <- []`, the decoder registers cleared without a report, the channel asked for a buffer-clear.
Without FLUSH_CLEARS_DECODER (93 U8, default true) the partial frame stays (log 10). -/
def execCFlush (s : State) : Result :=
  match s.life with
  | .absent => .refused .noEngine
  | .running | .stopped | .terminated =>
    .next (channelClear { (if s.cfg.flushClearsDecoder then s.clearDecoder else s) with fq := [] })

/-- `Q.POP` (R140): the head of FQ where there is one, else `empty` while the engine runs, else `closed`. -/
def execQPop (s : State) : Result :=
  match s.life, s.fq with
  | .absent, _ => .refused .noEngine
  | _, f :: rest => .next ({ s with fq := rest }.handOver (.frame f))
  | .running, [] => .next (s.handOver .empty)
  | .stopped, [] => .next (s.handOver .closed)
  | .terminated, [] => .next (s.handOver .closed)

/-- `REPLACE`: the events with which the caller drops and reconstructs the frame layer (30_encoding R83, 42_receiver R143). -/
def replaceEvents : List CallerEvent := [.stopReq, .join, .drop, .start]

end Sys2Proof.Machine
end

