-- ==== Sys2Proof/Machine/Operands.lean ====
section
/-!
DEFINITION. What is computed from operands: the body of a frame (00_scope R15), the escape of a payload byte and the
encoding of a payload (41_encoder R121), the language of well-formed wire frames and its unescaping (30_encoding R80,
40_decoder R107).
-/

namespace Sys2Proof.Machine

/-- The body of a frame: its bytes between the two delimiters (00_scope R15, 30_encoding R75). -/
def frameBody (f : Frame) : List Byte := (f.drop 1).dropLast

/-- The frame whose body is `p`, as the decoder completes it (40_decoder R94). -/
def frameOf (p : List Byte) : Frame := DELIM :: (p ++ [DELIM])

/-- `esc(b)`: how a payload byte travels (41_encoder R121, 30_encoding R71). -/
def escapeByte (b : Byte) : List Byte :=
  if b = DELIM then [ESC, SUB_DELIM] else if b = ESC then [ESC, SUB_ESC] else [b]

/-- `concat_map(esc, p)`: the escaped body (41_encoder R121). -/
def escapeBody (p : List Byte) : List Byte := p.flatMap escapeByte

/-- `encode(p)`: the wire frame of a payload (41_encoder R121). -/
def encodePayload (p : List Byte) : List Byte := DELIM :: (escapeBody p ++ [DELIM])

/-- The escaped bodies of well-formed wire frames: no delimiter, and every escape byte starts a pair that DC or DD
completes, reading left to right (30_encoding R80). -/
def wellFormedBody : List Byte → Bool
  | [] => true
  | [b] => b != DELIM && b != ESC
  | b :: c :: w =>
    if b = ESC then (c == SUB_DELIM || c == SUB_ESC) && wellFormedBody w
    else b != DELIM && wellFormedBody (c :: w)

/-- `unesc(w)`: each pair DB DC becomes C0, each pair DB DD becomes DB, left to right; the rest stays (40_decoder R107). -/
def unescapeBody : List Byte → List Byte
  | [] => []
  | [b] => [b]
  | b :: c :: w =>
    if b = ESC ∧ c = SUB_DELIM then DELIM :: unescapeBody w
    else if b = ESC ∧ c = SUB_ESC then ESC :: unescapeBody w
    else b :: unescapeBody (c :: w)

end Sys2Proof.Machine
end

