-- ==== Sys2Proof/Machine/Encoder.lean ====
section
/-!
DEFINITION. The five encoder operations (41_encoder R116 to R120), one meaning each, and the operation sequence of a whole
payload (R122). They read and write only TX_OPEN and TX_OUT (R115); out of sequence they are refused (R126).
-/

namespace Sys2Proof.Machine

/-- `E.START` (R116): `TxEmit(0xC0); TX_OPEN <- 1`, with TX_OPEN = 0. -/
def execEStart (s : State) : Result :=
  if s.txOpen then .refused .encoderOutOfSequence else .next ((s.txEmit DELIM).setTxOpen true)

/-- `E.XDELIM` (R118): `TxEmit(0xDB); TxEmit(0xDC)`, with TX_OPEN = 1. -/
def execEXdelim (s : State) : Result :=
  if s.txOpen then .next ((s.txEmit ESC).txEmit SUB_DELIM) else .refused .encoderOutOfSequence

/-- `E.XESC` (R119): `TxEmit(0xDB); TxEmit(0xDD)`, with TX_OPEN = 1. -/
def execEXesc (s : State) : Result :=
  if s.txOpen then .next ((s.txEmit ESC).txEmit SUB_ESC) else .refused .encoderOutOfSequence

/-- `E.LIT b` (R117): `TxEmit(b)`, with TX_OPEN = 1, for a byte that needs no escaping. -/
def execELit (b : Byte) (s : State) : Result :=
  if b = DELIM ∨ b = ESC then .refused .notSelected
  else if s.txOpen then .next (s.txEmit b) else .refused .encoderOutOfSequence

/-- `E.END` (R120): `TxEmit(0xC0); TX_OPEN <- 0`, with TX_OPEN = 1. -/
def execEEnd (s : State) : Result :=
  if s.txOpen then .next ((s.txEmit DELIM).setTxOpen false) else .refused .encoderOutOfSequence

/-- `ENCODE p`: the events the caller issues for a whole payload (30_encoding R83, 41_encoder R122). -/
def encodeEvents (p : List Byte) : List CallerEvent :=
  .frameStart :: (p.map .payload ++ [.frameFinish])

end Sys2Proof.Machine
end

