-- ==== Sys2Proof/Machine/Decoder.lean ====
section
/-!
DEFINITION. The eight decoder operations (40_decoder R91 to R98), one meaning each; the step function they add up to
(R99) and its run over a byte sequence (R102). A decoder operation reads no LIFE and no PORT_OWNER (R90): the engine
executes it inside RX.BYTE (log 13). One that the mode and the byte do not select has no step.
-/

namespace Sys2Proof.Machine

/-- `D.OPEN` (R91): `BUF <- [0xC0]; OPEN <- 1; ESCF <- 0`. -/
def execDOpen (s : State) : Result :=
  if s.mode = .idle then openFrame s else .refused .notSelected

/-- `D.JUNK b` (R92): raises UnexpectedByte. -/
def execDJunk (b : Byte) (s : State) : Result :=
  if s.mode = .idle ∧ b ≠ DELIM then framingError .unexpectedByte b s else .refused .notSelected

/-- `D.ESC` (R93): `ESCF <- 1`. -/
def execDEsc (s : State) : Result :=
  if s.mode = .body then .next (s.setEscf true) else .refused .notSelected

/-- `D.CLOSE` (R94): the frame `BUF ++ [0xC0]` is pushed; `BUF <- []; OPEN <- 0; ESCF <- 0`. -/
def execDClose (s : State) : Result :=
  if s.mode = .body then andThen (fqPush (s.buf ++ [DELIM]) s) (fun t => .next t.clearDecoder)
  else .refused .notSelected

/-- `D.LIT b` (R95): `BufAppend(b)`. -/
def execDLit (b : Byte) (s : State) : Result :=
  if s.mode = .body ∧ b ≠ DELIM ∧ b ≠ ESC then bufAppend b s else .refused .notSelected

/-- `D.XDELIM` (R96): `BufAppend(0xC0); ESCF <- 0`. -/
def execDXdelim (s : State) : Result :=
  if s.mode = .escape then andThen (bufAppend DELIM s) (fun t => .next (t.setEscf false)) else .refused .notSelected

/-- `D.XESC` (R97): `BufAppend(0xDB); ESCF <- 0`. -/
def execDXesc (s : State) : Result :=
  if s.mode = .escape then andThen (bufAppend ESC s) (fun t => .next (t.setEscf false)) else .refused .notSelected

/-- `D.BADESC b` (R98): raises InvalidEscape. -/
def execDBadesc (b : Byte) (s : State) : Result :=
  if s.mode = .escape ∧ b ≠ SUB_DELIM ∧ b ≠ SUB_ESC then framingError .invalidEscape b s else .refused .notSelected

/-- `decode_step` as one total function of the byte and the three decoder registers (40_decoder R99). -/
def decodeStep (b : Byte) (o x : Bool) (u : List Byte) : DecodeResult :=
  if o = false then
    if b = DELIM then .ok true false [DELIM] none else .err .unexpectedByte
  else if x = true then
    if b = SUB_DELIM then .ok true false (u ++ [DELIM]) none
    else if b = SUB_ESC then .ok true false (u ++ [ESC]) none
    else .err .invalidEscape
  else
    if b = ESC then .ok true true u none
    else if b = DELIM then .ok false false [] (some (u ++ [DELIM]))
    else .ok true false (u ++ [b]) none

/-- The three decoder registers `(OPEN, ESCF, BUF)` (10_state R21). -/
abbrev Regs := Bool × Bool × List Byte

/-- The decoder registers of a machine state. -/
def State.regs (s : State) : Regs := (s.openF, s.escf, s.buf)

/-- `feed(d, q, e, s)`: the decoder run over a byte sequence, with the queue and the log it leaves (40_decoder R102). -/
def feed (d : Regs) (q : List Frame) (e : List Report) : List Byte → Regs × List Frame × List Report
  | [] => (d, q, e)
  | b :: bs =>
    match decodeStep b d.1 d.2.1 d.2.2 with
    | .ok o x u none => feed (o, x, u) q e bs
    | .ok o x u (some f) => feed (o, x, u) (q ++ [f]) e bs
    | .err k => feed (false, false, []) q (e ++ [k]) bs

/-- The registers of a decoder between frames (10_state R44). -/
def Regs.start : Regs := (false, false, [])

/-- `frames(s)`: the frames a stream completes from mode IDLE (40_decoder R102). -/
def framesOf (bs : List Byte) : List Frame := (feed Regs.start [] [] bs).2.1

/-- `reports(s)`: the errors a stream raises from mode IDLE (40_decoder R102). -/
def reportsOf (bs : List Byte) : List Report := (feed Regs.start [] [] bs).2.2

end Sys2Proof.Machine
end

