-- ==== Sys2Proof/Machine/Engine.lean ====
section
/-!
DEFINITION. The four steps of the engine's receive loop (42_receiver R131 to R134), one meaning each. A step whose
enabling condition does not hold has no step (R130).
-/

namespace Sys2Proof.Machine

/-- `RX.BYTE` (R131): the byte `b` just taken from the channel is decoded by `decode_step`; a completed frame is pushed in
the same step; an error is taken in the same step (R163). -/
def execRxByte (b : Byte) (s : State) : Result :=
  if s.canRead then
    match decodeStep b s.openF s.escf s.buf with
    | .ok o x u none => storeDecoder o x u s
    | .ok o x u (some f) => andThen (storeDecoder o x u s) (fqPush f)
    | .err k => framingError k b s
  else .refused .engineNotEnabled

/-- `RX.IDLE` (R132): no state change. -/
def execRxIdle (s : State) : Result :=
  if s.canRead then .next s else .refused .engineNotEnabled

/-- `RX.IOERR` (R133): the I/O-error entry. -/
def execRxIoerr (s : State) : Result :=
  if s.canRead then .next (ioErrorEntry s) else .refused .engineNotEnabled

/-- `RX.STOPACK` (R134): the partial frame is abandoned without a report; `LIFE <- STOPPED`. -/
def execRxStopack (s : State) : Result :=
  if s.canStop then .next { s.clearDecoder with life := .stopped } else .refused .engineNotEnabled

end Sys2Proof.Machine
end

