-- ==== Sys2Proof/Machine/Dispatch.lean ====
section
/-! DEFINITION. Each operation's meaning, one arm per constructor of Instr, in the order of spec/opcode_table.json. -/

namespace Sys2Proof.Machine

def exec (i : Instr) (s : State) : Host.Outcome State Fault Refusal :=
  match i with
  | .dOpen => Sys2Proof.Machine.execDOpen s
  | .dJunk b => Sys2Proof.Machine.execDJunk b s
  | .dEsc => Sys2Proof.Machine.execDEsc s
  | .dClose => Sys2Proof.Machine.execDClose s
  | .dLit b => Sys2Proof.Machine.execDLit b s
  | .dXdelim => Sys2Proof.Machine.execDXdelim s
  | .dXesc => Sys2Proof.Machine.execDXesc s
  | .dBadesc b => Sys2Proof.Machine.execDBadesc b s
  | .eStart => Sys2Proof.Machine.execEStart s
  | .eXdelim => Sys2Proof.Machine.execEXdelim s
  | .eXesc => Sys2Proof.Machine.execEXesc s
  | .eLit b => Sys2Proof.Machine.execELit b s
  | .eEnd => Sys2Proof.Machine.execEEnd s
  | .rxByte b => Sys2Proof.Machine.execRxByte b s
  | .rxIdle => Sys2Proof.Machine.execRxIdle s
  | .rxIoerr => Sys2Proof.Machine.execRxIoerr s
  | .rxStopack => Sys2Proof.Machine.execRxStopack s
  | .cStart => Sys2Proof.Machine.execCStart s
  | .cStopreq => Sys2Proof.Machine.execCStopreq s
  | .cJoin => Sys2Proof.Machine.execCJoin s
  | .cDrop => Sys2Proof.Machine.execCDrop s
  | .cFlush => Sys2Proof.Machine.execCFlush s
  | .qPop => Sys2Proof.Machine.execQPop s

end Sys2Proof.Machine
end

