-- ==== Sys2Proof/Machine/Step.lean ====
section
/-!
DEFINITION. One step of the machine: the next turn is taken, what selects its operation is fetched and decoded, and the
operation is executed (20_memory R60: one atomic step of one agent).
-/

namespace Sys2Proof.Machine

/-- The operation of a fetched input, executed; nothing fetched leaves the state as it is (42_receiver R130). -/
def runFetched (p : Option Input × State) : Host.Outcome State Fault Refusal :=
  match p.1 with
  | some x => exec (decode x) p.2
  | none => .next p.2

/-- The step of one turn. -/
def stepOf (t : Turn) (s : State) : Host.Outcome State Fault Refusal :=
  match t with
  | .engine | .ack | .caller => runFetched (fetch t s)
  | .outsider n => outsiderReads n s

/-- One step of the machine: one atomic step of the agent whose turn it is. -/
def step (s : State) : Host.Outcome State Fault Refusal :=
  stepOf (takeTurn s).1 (takeTurn s).2

/-- The state in which the very next step takes the word's byte in the mode of its row (log 11). -/
def State.withFetchWord (s : State) (_nbits w : Nat) : State :=
  s.placeByte (tableMode (BitVec.ofNat 8 w)) (BitVec.ofNat 8 w)

end Sys2Proof.Machine
end

