-- ==== Sys2Proof/Safety.lean ====
section
/-!
DEFINITION. What claims about the machine are stated with: the invariants of its state (10_state R26, R28), what a run,
its end and its observable result are (42_receiver R148), and the fairness the spec assumes of executions (R149).
-/

namespace Sys2Proof.Machine

/-- I1 and I2 of 10_state R26. -/
abbrev decoderInv (s : State) : Prop :=
  (s.openF = false → s.escf = false ∧ s.buf = []) ∧
  (s.openF = true → 1 ≤ s.buf.length ∧ s.buf.head? = some DELIM)

/-- A completed frame: at least two bytes, a delimiter first and last (10_state R28). -/
abbrev isFrame (f : Frame) : Prop :=
  2 ≤ f.length ∧ f.head? = some DELIM ∧ f.getLast? = some DELIM

/-- A result of a poll that hands over a frame hands over a completed one (10_state R28, 42_receiver R140). -/
def pollOk : PollResult → Bool
  | .frame f => decide (isFrame f)
  | .empty => true
  | .closed => true

/-- The frames in the queue and the frames handed over are frames (10_state R28). -/
abbrev framesInv (s : State) : Prop :=
  (∀ f ∈ s.fq, isFrame f) ∧ (∀ r ∈ s.polls, pollOk r = true)

/-- The stores are within their limits (00_scope R7, 42_receiver R150). -/
abbrev withinLimits (s : State) : Prop :=
  fits s.cfg.frameMax s.buf.length = true ∧ fits s.cfg.fqDepth s.fq.length = true

/-- What the life of the engine says of the rest: an engine that does not run has no partial frame, a running one holds
the port, an absent one has no queue and no cancellation; one I/O error is reported exactly where the engine has
terminated (42_receiver R133 a, R135 to R138). -/
abbrev lifeInv (s : State) : Prop :=
  (s.life ≠ .running → s.openF = false) ∧
  (s.life = .running → s.portOwner = .block ∧ s.elog.count .ioError = 0) ∧
  (s.life = .stopped → s.cancel = true ∧ s.elog.count .ioError = 0) ∧
  (s.life = .terminated → s.elog.count .ioError = 1) ∧
  (s.life = .absent → s.portOwner = .external ∧ s.cancel = false ∧ s.fq = [] ∧ s.elog.count .ioError ≤ 1)

/-- The invariant of the machine's state. -/
abbrev Inv (s : State) : Prop :=
  decoderInv s ∧ framesInv s ∧ withinLimits s ∧ lifeInv s

/-- TX_OUT is a sequence of encoded payloads, followed while a frame is open by the part of one emitted so far
(41_encoder R122, R126). -/
def encoderInv (s : State) : Prop :=
  ∃ ps : List (List Byte),
    if s.txOpen then ∃ p, s.txOut = ps.flatMap encodePayload ++ DELIM :: escapeBody p
    else s.txOut = ps.flatMap encodePayload

/-- The block behaves as the spec's default parameters say: no limits, the offender consumed, the flush clearing the
decoder (00_scope R7; 92 D3, D5, D6, D11). -/
abbrev defaultCfg (s : State) : Prop := s.cfg = Config.Params.default

/-- The run of `n` steps, stopping at the first refusal; `Laws/Step.lean` proves it the host's `Host.Core.run`. -/
def runSteps : Nat → State → Result
  | 0, s => .next s
  | n + 1, s => andThen (step s) (runSteps n)

/-- A run is over: no input is left that the engine could take, it has no step enabled but RX.IDLE, and the caller has
no operation in progress (42_receiver R148). -/
abbrev runOver (s : State) : Prop :=
  (s.canRead = true → ∀ a ∈ s.rxIn, a = .nodata) ∧ s.canStop = false ∧ s.callerOps = []

/-- The observable result of a run (42_receiver R148). -/
structure Observation where
  polls : List PollResult
  fq : List Frame
  elog : List Report
  life : Life
  mode : Mode
  buf : List Byte
  txOut : List Byte
  deriving DecidableEq, Repr

/-- What a state shows when a run is over (42_receiver R148). -/
def observe (s : State) : Observation :=
  { polls := s.polls, fq := s.fq, elog := s.elog, life := s.life, mode := s.mode, buf := s.buf, txOut := s.txOut }

/-- The environment has placed more turns, answers and caller's events behind those already placed (10_state R35, R41). -/
def Supplied (s t : State) : Prop :=
  ∃ (ts : List Turn) (as : List Answer) (es : List CallerEvent),
    t = { s with turns := s.turns ++ ts, rxIn := s.rxIn ++ as, callerOps := s.callerOps ++ es }

/-- An execution, by the states its steps are taken from: a step, then what the environment supplies, then the next step
(20_memory R60). A run of `step` alone is one in which nothing is supplied. -/
def IsExecution (e : Nat → State) : Prop := ∀ n, ∃ s, step (e n) = .next s ∧ Supplied s (e (n + 1))

/-- The fairness the spec assumes of every execution and the step does not enforce (log 15): a running engine with the flag
set ends; the byte the channel holds next is taken, or leaves the channel, or the engine ends (42_receiver R149); and once
the engine has ended, a C.JOIN the caller has issued gets its turn, since the turns that pass are no steps of the block
(20_memory R63, 42_receiver R130). -/
def Fair (e : Nat → State) : Prop :=
  (∀ n, (e n).life = .running → (e n).cancel = true → ∃ m, n ≤ m ∧ (e m).life ≠ .running) ∧
  (∀ n b, (e n).life = .running → (e n).cancel = false → (e n).rxIn.head? = some (.byte b) →
    ∃ m, n ≤ m ∧ ((e m).life ≠ .running ∨ (e m).rxIn.head? ≠ some (.byte b) ∨
      (fetch (takeTurn (e m)).1 (takeTurn (e m)).2).1 = some (.answer (.byte b)))) ∧
  (∀ n, (e n).life ≠ .running → (e n).callerOps.head? = some .join → ∃ m, n ≤ m ∧ (takeTurn (e m)).1 = .caller)

end Sys2Proof.Machine
end

