-- ==== Sys2Proof/Certificates/Slice0/Obligations.lean ====
section
/-!
DEFINITION. The statements for the provers. Each formalises rules of spec/ named in its docstring; the next states are
written out field by field, so that a statement of a result is also the frame (every field not named is unchanged).
-/

open Sys2Proof Sys2Proof.Machine

/-! ### Reset -/

/-- R44: the value of every state element after power-up and after C.START. -/
def Obligations.ResetAndStartValues : Prop :=
  (State.reset.openF = false ∧ State.reset.escf = false ∧ State.reset.buf = [] ∧ State.reset.fq = [] ∧
    State.reset.life = .absent ∧ State.reset.cancel = false ∧ State.reset.elog = [] ∧
    State.reset.portOwner = .external ∧ State.reset.txOpen = false ∧ State.reset.txOut = []) ∧
  (∀ s t : State, exec .cStart s = .next t →
    t.openF = false ∧ t.escf = false ∧ t.buf = [] ∧ t.fq = [] ∧ t.life = .running ∧ t.cancel = false ∧ t.elog = [] ∧
    t.portOwner = .block ∧ t.txOpen = s.txOpen ∧ t.txOut = s.txOut)

/-- R135: C.START, enabled with LIFE = ABSENT and PORT_OWNER = EXTERNAL, otherwise refused. -/
def Obligations.StartConstructsEngine : Prop :=
  (∀ s : State, s.life = .absent → s.portOwner = .external →
    exec .cStart s = .next { s with openF := false, escf := false, buf := [], fq := [], elog := [], cancel := false,
                                    portOwner := .block, life := .running }) ∧
  (∀ s : State, ¬(s.life = .absent ∧ s.portOwner = .external) → exec .cStart s = .refused .cannotStart)

/-! ### Selection -/

/-- Inputs written out from the tables of R74, R76 and R77, and what they select. The clauses on `decodeTableWord` rest on
the model's choice of the mode a bare byte is read in (log 11), not on a rule of the spec. -/
def Obligations.TabledWordsSelectTheirRows : Prop :=
  decode (.rx .idle 0xC0) = .dOpen ∧ decode (.rx .body 0xC0) = .dClose ∧ decode (.rx .escape 0xC0) = .dBadesc 0xC0 ∧
  decode (.rx .body 0xDB) = .dEsc ∧ decode (.rx .escape 0xDC) = .dXdelim ∧ decode (.rx .escape 0xDD) = .dXesc ∧
  decode (.rx .idle 0xDB) = .dJunk 0xDB ∧ decode (.rx .body 0xDC) = .dLit 0xDC ∧
  decode (.caller (.payload 0xC0)) = .eXdelim ∧ decode (.caller (.payload 0xDB)) = .eXesc ∧
  decode (.caller (.payload 0xDD)) = .eLit 0xDD ∧ decode (.answer .nodata) = .rxIdle ∧
  decode (.caller .pop) = .qPop ∧ decodeTableWord 8 0xC0 = some .dOpen ∧ decodeTableWord 8 0xDB = some .dEsc ∧
  decodeTableWord 16 0xC0 = none

/-- R74, R76, R77, R79: decoding and encoding are inverse to each other: every well-formed operation is what its input
selects, and every input selects one well-formed operation, which has no other input. -/
def Obligations.DecodeAndEncodeAreInverse : Prop :=
  (∀ i : Instr, i.wellFormed = true → decode (encode i) = i) ∧
  (∀ x : Input, (decode x).wellFormed = true ∧ encode (decode x) = x)

/-- R78: illegal encodings are per mode: in IDLE the 255 values other than the delimiter, in ESCAPE the 254 values other
than the two legal ones, in BODY none. -/
def Obligations.IllegalEncodingsArePerMode : Prop :=
  (∀ b : Byte, (decodeRx .idle b = .dJunk b) ↔ b ≠ DELIM) ∧
  (∀ b : Byte, (decodeRx .escape b = .dBadesc b) ↔ (b ≠ SUB_DELIM ∧ b ≠ SUB_ESC)) ∧
  (∀ b c : Byte, decodeRx .body b ≠ .dJunk c ∧ decodeRx .body b ≠ .dBadesc c) ∧
  ((List.range 256).countP (fun n => decodeRx .idle (BitVec.ofNat 8 n) = .dJunk (BitVec.ofNat 8 n)) = 255) ∧
  ((List.range 256).countP (fun n => decodeRx .escape (BitVec.ofNat 8 n) = .dBadesc (BitVec.ofNat 8 n)) = 254)

/-! ### The decoder operations -/

/-- R91: D.OPEN, with OPEN = 0 whatever ESCF is. -/
def Obligations.OpenStoresTheDelimiter : Prop :=
  ∀ s : State, s.openF = false → fits s.cfg.frameMax 1 = true →
    exec .dOpen s = .next { s with buf := [0xC0#8], openF := true, escf := false }

/-- R92 and R163: D.JUNK reports UnexpectedByte and leaves the decoder in IDLE. -/
def Obligations.JunkReportsUnexpectedByte : Prop :=
  ∀ (s : State) (b : Byte), s.openF = false → b ≠ 0xC0#8 →
    exec (.dJunk b) s =
      .next { s with elog := s.elog ++ [.unexpectedByte], openF := false, escf := false, buf := [] }

/-- R93: D.ESC sets ESCF and nothing else. -/
def Obligations.EscapePrefixSetsTheFlag : Prop :=
  ∀ s : State, s.openF = true → s.escf = false → exec .dEsc s = .next { s with escf := true }

/-- R94: D.CLOSE pushes BUF with the closing delimiter and clears the decoder; an empty body is no exception. -/
def Obligations.ClosePushesTheFrame : Prop :=
  ∀ s : State, s.openF = true → s.escf = false → fits s.cfg.fqDepth (s.fq.length + 1) = true →
    exec .dClose s = .next { s with fq := s.fq ++ [s.buf ++ [0xC0#8]], buf := [], openF := false, escf := false }

/-- R95: D.LIT appends the byte verbatim. -/
def Obligations.LiteralIsAppended : Prop :=
  ∀ (s : State) (b : Byte), s.openF = true → s.escf = false → b ≠ 0xC0#8 → b ≠ 0xDB#8 →
    fits s.cfg.frameMax (s.buf.length + 1) = true →
    exec (.dLit b) s = .next { s with buf := s.buf ++ [b] }

/-- R96 and R97: the second byte of an escape sequence appends the constant the sequence stands for, and ESCF clears. -/
def Obligations.EscapePairsAppendTheirValue : Prop :=
  ∀ s : State, s.openF = true → s.escf = true → fits s.cfg.frameMax (s.buf.length + 1) = true →
    exec .dXdelim s = .next { s with buf := s.buf ++ [0xC0#8], escf := false } ∧
    exec .dXesc s = .next { s with buf := s.buf ++ [0xDB#8], escf := false }

/-- R98 and R163: D.BADESC reports InvalidEscape, abandons the partial frame and consumes the byte, a delimiter too. -/
def Obligations.BadEscapeAbandonsTheFrame : Prop :=
  ∀ (s : State) (b : Byte), s.openF = true → s.escf = true → b ≠ 0xDC#8 → b ≠ 0xDD#8 →
    s.cfg.reexamineOffender = false →
    exec (.dBadesc b) s =
      .next { s with elog := s.elog ++ [.invalidEscape], openF := false, escf := false, buf := [] }

/-- R90, R74: a decoder operation has no step in a mode that does not select it. -/
def Obligations.UnselectedDecoderOperationHasNoStep : Prop :=
  ∀ (m : Mode) (b : Byte) (s : State), m ≠ s.mode → exec (decodeRx m b) s = .refused .notSelected

/-- R100: the mode before and after each decoder operation that has a step (the offender consumed). -/
def Obligations.ModeTransitionsOfTheDecoder : Prop :=
  ∀ (i : Instr) (s t : State), s.cfg.reexamineOffender = false → exec i s = .next t →
    match i with
    | .dOpen => s.mode = .idle ∧ t.mode = .body
    | .dJunk _ => s.mode = .idle ∧ t.mode = .idle
    | .dEsc => s.mode = .body ∧ t.mode = .escape
    | .dClose => s.mode = .body ∧ t.mode = .idle
    | .dLit _ => s.mode = .body ∧ t.mode = .body
    | .dXdelim => s.mode = .escape ∧ t.mode = .body
    | .dXesc => s.mode = .escape ∧ t.mode = .body
    | .dBadesc _ => s.mode = .escape ∧ t.mode = .idle
    | _ => True

/-- R54, R55, R150: with a finite limit, an operation that would exceed it is refused, by itself and inside RX.BYTE. -/
def Obligations.ExceededLimitsAreRefused : Prop :=
  (∀ s : State, s.openF = true → s.escf = false → fits s.cfg.frameMax (s.buf.length + 1) = false →
    (∀ b : Byte, b ≠ 0xC0#8 → b ≠ 0xDB#8 →
      exec (.dLit b) s = .refused .frameTooLong ∧ (s.canRead = true → exec (.rxByte b) s = .refused .frameTooLong))) ∧
  (∀ s : State, s.openF = true → s.escf = true → fits s.cfg.frameMax (s.buf.length + 1) = false →
    exec .dXdelim s = .refused .frameTooLong ∧ exec .dXesc s = .refused .frameTooLong ∧
    (s.canRead = true → exec (.rxByte 0xDC) s = .refused .frameTooLong ∧
      exec (.rxByte 0xDD) s = .refused .frameTooLong)) ∧
  (∀ s : State, s.openF = false → fits s.cfg.frameMax 1 = false →
    exec .dOpen s = .refused .frameTooLong ∧ (s.canRead = true → exec (.rxByte 0xC0) s = .refused .frameTooLong)) ∧
  (∀ s : State, s.openF = true → s.escf = false → fits s.cfg.fqDepth (s.fq.length + 1) = false →
    exec .dClose s = .refused .queueFull ∧ (s.canRead = true → exec (.rxByte 0xC0) s = .refused .queueFull))

/-- R90: a decoder operation reads only the decoder registers, the stores it appends to and the parameters, and writes
only the decoder registers, FQ and ELOG: on two states that agree there it answers alike, and it leaves the rest. -/
def Obligations.DecoderOperationsDependOnTheDecoderOnly : Prop :=
  ∀ (m : Mode) (b : Byte) (s t : State),
    s.openF = t.openF → s.escf = t.escf → s.buf = t.buf → s.fq = t.fq → s.elog = t.elog → s.cfg = t.cfg →
    (∀ s' : State, exec (decodeRx m b) s = .next s' →
      s' = { s with openF := s'.openF, escf := s'.escf, buf := s'.buf, fq := s'.fq, elog := s'.elog } ∧
      exec (decodeRx m b) t =
        .next { t with openF := s'.openF, escf := s'.escf, buf := s'.buf, fq := s'.fq, elog := s'.elog }) ∧
    (∀ r : Refusal, exec (decodeRx m b) s = .refused r → exec (decodeRx m b) t = .refused r)

/-! ### The encoder operations -/

/-- R116 to R120: the five encoder operations in sequence. -/
def Obligations.EncoderOperationsEmit : Prop :=
  (∀ s : State, s.txOpen = false →
    exec .eStart s = .next { s with txOut := s.txOut ++ [0xC0#8], txOpen := true }) ∧
  (∀ s : State, s.txOpen = true →
    exec .eXdelim s = .next { s with txOut := s.txOut ++ [0xDB#8, 0xDC#8] } ∧
    exec .eXesc s = .next { s with txOut := s.txOut ++ [0xDB#8, 0xDD#8] } ∧
    (∀ b : Byte, b ≠ 0xC0#8 → b ≠ 0xDB#8 → exec (.eLit b) s = .next { s with txOut := s.txOut ++ [b] }) ∧
    exec .eEnd s = .next { s with txOut := s.txOut ++ [0xC0#8], txOpen := false })

/-- R126: encoder operations out of sequence are refused. -/
def Obligations.MisSequencedEncoderIsRefused : Prop :=
  (∀ s : State, s.txOpen = true → exec .eStart s = .refused .encoderOutOfSequence) ∧
  (∀ s : State, s.txOpen = false →
    exec .eXdelim s = .refused .encoderOutOfSequence ∧ exec .eXesc s = .refused .encoderOutOfSequence ∧
    (∀ b : Byte, b ≠ 0xC0#8 → b ≠ 0xDB#8 → exec (.eLit b) s = .refused .encoderOutOfSequence) ∧
    exec .eEnd s = .refused .encoderOutOfSequence)

/-- R76, R79: inside a frame no payload byte is refused; the operation it selects emits its escape (R121). -/
def Obligations.EveryPayloadByteIsEncoded : Prop :=
  ∀ (s : State) (b : Byte), s.txOpen = true →
    exec (decode (.caller (.payload b))) s = .next { s with txOut := s.txOut ++ escapeByte b }

/-- R115: an encoder operation changes only TX_OPEN and TX_OUT, never removes what was emitted, and whether it has a
step depends on TX_OPEN alone. -/
def Obligations.EncoderTouchesOnlyItsOwnState : Prop :=
  ∀ (e : CallerEvent) (s t : State),
    (match e with | .frameStart => True | .payload _ => True | .frameFinish => True | _ => False) →
    (∀ s' : State, exec (decode (.caller e)) s = .next s' →
      s' = { s with txOpen := s'.txOpen, txOut := s'.txOut } ∧ (∃ w, s'.txOut = s.txOut ++ w) ∧
      (t.txOpen = s.txOpen → ∃ t', exec (decode (.caller e)) t = .next t' ∧ t'.txOpen = s'.txOpen))

/-! ### The engine's steps -/

/-- R131: RX.BYTE, case by case over the result of `decode_step`, where one more byte and one more frame fit and the
offender is consumed; and the byte it decodes is the one taken from RX_IN, which loses it. (That second clause places the
turn and the answer, which is taken while the step fetches: the model's choices, logs 2 and 3.) -/
def Obligations.ByteIsTakenAndDecoded : Prop :=
  ∀ (s : State) (b : Byte), s.life = .running → s.portOwner = .block →
    fits s.cfg.frameMax (s.buf.length + 1) = true → fits s.cfg.fqDepth (s.fq.length + 1) = true →
    (s.cfg.reexamineOffender = false ∨ b ≠ 0xC0#8) →
    (exec (.rxByte b) s =
      match decodeStep b s.openF s.escf s.buf with
      | .ok o x u none => .next { s with openF := o, escf := x, buf := u }
      | .ok o x u (some f) => .next { s with openF := o, escf := x, buf := u, fq := s.fq ++ [f] }
      | .err k => .next { s with elog := s.elog ++ [k], openF := false, escf := false, buf := [] }) ∧
    (∀ (ts : List Turn) (as : List Answer), s.turns = .engine :: ts → s.rxIn = .byte b :: as →
      step s = exec (.rxByte b) { s with turns := ts, rxIn := as })

/-- R99 and R74: `decode_step` inside RX.BYTE and the operation the decode table selects are the same step. -/
def Obligations.StepFunctionAndDecodeTableAgree : Prop :=
  ∀ (s : State) (b : Byte), s.canRead = true → withinLimits s → exec (.rxByte b) s = exec (decodeRx s.mode b) s

/-- R132, R133, R164, R134: the other steps of the engine. -/
def Obligations.EngineStepsWithoutAByte : Prop :=
  (∀ s : State, s.life = .running → s.portOwner = .block → exec .rxIdle s = .next s) ∧
  (∀ s : State, s.life = .running → s.portOwner = .block →
    exec .rxIoerr s = .next { s with elog := s.elog ++ [.ioError], openF := false, escf := false, buf := [],
                                     life := .terminated }) ∧
  (∀ s : State, s.life = .running → s.cancel = true →
    exec .rxStopack s = .next { s with openF := false, escf := false, buf := [], life := .stopped })

/-! ### The control operations and the queue -/

/-- R136: C.STOPREQ sets CANCEL and nothing else; refused with LIFE = ABSENT. -/
def Obligations.StopRequestSetsCancel : Prop :=
  (∀ s : State, s.life ≠ .absent → exec .cStopreq s = .next { s with cancel := true }) ∧
  (∀ s : State, s.life = .absent → exec .cStopreq s = .refused .noEngine)

/-- R137: C.JOIN takes the port once the engine has ended; refused with LIFE = ABSENT. While the engine runs the caller
waits: the model's form of that is that the operation stays in progress (log 4). -/
def Obligations.JoinTakesThePortOrWaits : Prop :=
  (∀ s : State, s.life = .stopped ∨ s.life = .terminated → exec .cJoin s = .next { s with portOwner := .external }) ∧
  (∀ s : State, s.life = .running → exec .cJoin s = .next { s with callerOps := .join :: s.callerOps }) ∧
  (∀ s : State, s.life = .absent → exec .cJoin s = .refused .noEngine)

/-- R138: C.DROP of an ended engine clears it and keeps ELOG; refused with LIFE = ABSENT. Of a running one it is C.STOPREQ,
C.JOIN, C.DROP: the model's form of that is that the last two stay in progress (log 4). -/
def Obligations.DropDestroysTheEngine : Prop :=
  (∀ s : State, s.life = .stopped ∨ s.life = .terminated →
    exec .cDrop s = .next { s with openF := false, escf := false, buf := [], fq := [], cancel := false,
                                   portOwner := .external, life := .absent }) ∧
  (∀ s : State, s.life = .running →
    exec .cDrop s = .next { s with cancel := true, callerOps := .join :: .drop :: s.callerOps }) ∧
  (∀ s : State, s.life = .absent → exec .cDrop s = .refused .noEngine)

/-- R139: C.FLUSH empties FQ, clears the decoder without a report and asks for a buffer-clear, which discards some prefix
of RX_IN; refused with LIFE = ABSENT. (`draws` is the model's own count of free values, log 5.) -/
def Obligations.FlushEmptiesThePipeline : Prop :=
  (∀ s : State, s.life ≠ .absent → s.cfg.flushClearsDecoder = true →
    ∃ n d : Nat, exec .cFlush s =
      .next { s with fq := [], openF := false, escf := false, buf := [], rxIn := s.rxIn.drop n, draws := d }) ∧
  (∀ s : State, s.life = .absent → exec .cFlush s = .refused .noEngine)

/-- 93 U7 (log 9) and U8 (log 10): what the two Boolean parameters change when they are not at their default: with
REEXAMINE_OFFENDER the delimiter that ends an escape sequence in error also opens a frame, and no other byte differs;
without FLUSH_CLEARS_DECODER the flush leaves the partial frame. -/
def Obligations.ParametersOffTheirDefault : Prop :=
  (∀ s : State, s.openF = true → s.escf = true → s.cfg.reexamineOffender = true → fits s.cfg.frameMax 1 = true →
    exec (.dBadesc 0xC0) s =
      .next { s with elog := s.elog ++ [.invalidEscape], openF := true, escf := false, buf := [0xC0#8] } ∧
    ∀ b : Byte, b ≠ 0xC0#8 → b ≠ 0xDC#8 → b ≠ 0xDD#8 →
      exec (.dBadesc b) s =
        .next { s with elog := s.elog ++ [.invalidEscape], openF := false, escf := false, buf := [] }) ∧
  (∀ s : State, s.life ≠ .absent → s.cfg.flushClearsDecoder = false →
    ∃ n d : Nat, exec .cFlush s = .next { s with fq := [], rxIn := s.rxIn.drop n, draws := d })

/-- R140: Q.POP hands over the head of FQ, else `empty` while the engine runs, else `closed`; refused with LIFE = ABSENT.
What it returns is recorded at the end of `polls`, the model's own record (log 6). -/
def Obligations.PopAnswersFrameEmptyOrClosed : Prop :=
  (∀ (s : State) (f : Frame) (q : List Frame), s.life ≠ .absent → s.fq = f :: q →
    exec .qPop s = .next { s with fq := q, polls := s.polls ++ [.frame f] }) ∧
  (∀ s : State, s.life = .running → s.fq = [] → exec .qPop s = .next { s with polls := s.polls ++ [.empty] }) ∧
  (∀ s : State, s.life = .stopped ∨ s.life = .terminated → s.fq = [] →
    exec .qPop s = .next { s with polls := s.polls ++ [.closed] }) ∧
  (∀ s : State, s.life = .absent → exec .qPop s = .refused .noEngine)

/-- R38: the status view, its values and its fields at power-up and after C.START. -/
def Obligations.StatusViewShowsTheState : Prop :=
  (∀ s : State, s.stLife = s.life ∧ s.stCancel = s.cancel ∧ s.stOpen = s.openF ∧ s.stEscf = s.escf ∧
    (s.stFqEmpty = true ↔ s.fq = []) ∧
    (s.stFqClosed = true ↔ ((s.life = .stopped ∨ s.life = .terminated) ∧ s.fq = [])) ∧ s.stTxOpen = s.txOpen) ∧
  (∀ s : State, s = State.reset ∨ exec .cStart State.reset = .next s →
    s.stCancel = false ∧ s.stOpen = false ∧ s.stEscf = false ∧ s.stFqEmpty = true ∧ s.stFqClosed = false ∧
    s.stTxOpen = false) ∧
  State.reset.stLife = .absent ∧ (∀ s : State, exec .cStart State.reset = .next s → s.stLife = .running)

/-! ### Which operation can happen when -/

/-- R141, R130: which operation can happen in which LIFE (within the stores' limits). Two things are the model's form and
not R141's table: an operation that is not enabled is refused when it is executed by itself (log 12); and with
LIFE = RUNNING, where the table says `wait` for C.JOIN and `seq` for C.DROP, the two answer a next state in which they are
still in progress (log 4). -/
def Obligations.EnablednessByLife : Prop :=
  (∀ (s : State) (b : Byte), ¬(s.life = .running ∧ s.portOwner = .block) →
    exec (.rxByte b) s = .refused .engineNotEnabled ∧ exec .rxIdle s = .refused .engineNotEnabled ∧
    exec .rxIoerr s = .refused .engineNotEnabled) ∧
  (∀ s : State, ¬(s.life = .running ∧ s.cancel = true) → exec .rxStopack s = .refused .engineNotEnabled) ∧
  (∀ (s : State) (b : Byte), s.life = .running → s.portOwner = .block → defaultCfg s →
    (∃ t, exec (.rxByte b) s = .next t) ∧ (∃ t, exec .rxIdle s = .next t) ∧ (∃ t, exec .rxIoerr s = .next t) ∧
    ((∃ t, exec .rxStopack s = .next t) ↔ s.cancel = true)) ∧
  (∀ s : State, s.life ≠ .absent → exec .cStart s = .refused .cannotStart) ∧
  (∀ s : State, s.life = .absent → s.portOwner = .external → ∃ t, exec .cStart s = .next t) ∧
  (∀ s : State, ((∃ t, exec .cStopreq s = .next t) ↔ s.life ≠ .absent) ∧
    ((∃ t, exec .cJoin s = .next t) ↔ s.life ≠ .absent) ∧ ((∃ t, exec .cDrop s = .next t) ↔ s.life ≠ .absent) ∧
    ((∃ t, exec .cFlush s = .next t) ↔ s.life ≠ .absent) ∧ ((∃ t, exec .qPop s = .next t) ↔ s.life ≠ .absent)) ∧
  (∀ (s : State) (l : Life) (e : CallerEvent),
    (match e with | .frameStart => True | .payload _ => True | .frameFinish => True | _ => False) →
    ((∃ t, exec (decode (.caller e)) s = .next t) ↔ ∃ t, exec (decode (.caller e)) { s with life := l } = .next t))

/-- R142: these are all the transitions of LIFE, and what makes them. -/
def Obligations.LifeTransitions : Prop :=
  ∀ (i : Instr) (s t : State), exec i s = .next t → t.life ≠ s.life →
    (s.life = .absent ∧ t.life = .running ∧ i = .cStart) ∨
    (s.life = .running ∧ t.life = .stopped ∧ i = .rxStopack ∧ s.cancel = true) ∨
    (s.life = .running ∧ t.life = .terminated ∧ i = .rxIoerr) ∨
    (s.life = .stopped ∧ t.life = .absent ∧ i = .cDrop) ∨
    (s.life = .terminated ∧ t.life = .absent ∧ i = .cDrop)

/-- R34, R144: PORT_OWNER changes only by C.START, C.JOIN and C.DROP, and only these ways. -/
def Obligations.PortHandover : Prop :=
  ∀ (i : Instr) (s t : State), exec i s = .next t → t.portOwner ≠ s.portOwner →
    (i = .cStart ∧ t.portOwner = .block) ∨ ((i = .cJoin ∨ i = .cDrop) ∧ t.portOwner = .external)

/-- R30, R45: CANCEL is set only by C.STOPREQ and cleared only by C.START and C.DROP. That C.DROP of a running engine sets
it too is the model's form of the sequence C.STOPREQ, C.JOIN, C.DROP of R138: its first part is done at once (log 4). -/
def Obligations.CancelIsSetAndClearedByTheCaller : Prop :=
  ∀ (i : Instr) (s t : State), exec i s = .next t → t.cancel ≠ s.cancel →
    (t.cancel = true ∧ (i = .cStopreq ∨ (i = .cDrop ∧ s.life = .running))) ∨
    (t.cancel = false ∧ (i = .cStart ∨ (i = .cDrop ∧ s.life ≠ .running)))

/-- R144, R192 (93 U3): a reader other than the engine is refused while PORT_OWNER = BLOCK, whatever LIFE is; while it is
EXTERNAL it takes from the channel and touches nothing of the block. -/
def Obligations.SecondReaderIsRefused : Prop :=
  ∀ (s : State) (n : Nat) (ts : List Turn), s.turns = .outsider n :: ts →
    (s.portOwner = .block → step s = .refused .secondReader) ∧
    (s.portOwner = .external → step s = .next { s with turns := ts, rxIn := s.rxIn.drop n })

/-! ### The step -/

/-- A step runs the decoded instruction: with the turn placed, the step is `exec` of what the input of that turn selects,
on the state with the turn and the input taken. The turns, the answers and the caller's events are placed: the model's form
of what the environment decides (logs 2, 3, 4). That an engine turn without an enabled step passes is the model's choice
(log 12); R130 says that such a step does not occur. -/
def Obligations.StepRunsTheDecodedInstruction : Prop :=
  (∀ (s : State) (ts : List Turn) (a : Answer) (as : List Answer), s.turns = .engine :: ts → s.rxIn = a :: as →
    s.life = .running → s.portOwner = .block →
    step s = exec (decode (.answer a)) { s with turns := ts, rxIn := as }) ∧
  (∀ (s : State) (ts : List Turn), s.turns = .ack :: ts → s.life = .running → s.cancel = true →
    step s = exec (decode .cancelSeen) { s with turns := ts }) ∧
  (∀ (s : State) (ts : List Turn) (e : CallerEvent) (es : List CallerEvent), s.turns = .caller :: ts →
    s.callerOps = e :: es → step s = exec (decode (.caller e)) { s with turns := ts, callerOps := es }) ∧
  (∀ (s : State) (ts : List Turn), s.turns = .engine :: ts → ¬(s.life = .running ∧ s.portOwner = .block) →
    step s = .next { s with turns := ts }) ∧
  (∀ (s : State) (ts : List Turn), s.turns = .ack :: ts → ¬(s.life = .running ∧ s.cancel = true) →
    step s = .next { s with turns := ts })

/-- The word placed by `withFetchWord` is what the next step runs: the operation the decoder reads from the word, on the
state with the word taken (the model's reading of a bare byte, log 11). -/
def Obligations.PlacedWordIsRunNext : Prop :=
  ∀ (s : State) (w : Nat) (i : Instr), withinLimits (s.withFetchWord 8 w) → decodeTableWord 8 w = some i →
    step (s.withFetchWord 8 w) =
      exec i { s.withFetchWord 8 w with turns := s.turns, rxIn := s.rxIn }

/-! ### Invariants -/

/-- The invariant holds at power-up. -/
def Obligations.ResetMeetsTheInvariant : Prop := Inv State.reset ∧ encoderInv State.reset

/-- R26, R28, R150, R133 a, R135 to R138: every step keeps the invariant of the state. -/
def Obligations.EveryStepKeepsTheInvariant : Prop :=
  ∀ s s' : State, Inv s → step s = .next s' → Inv s'

/-- R26, R106: every operation keeps I1 and I2, and every frame it pushes or hands over is a frame (R28). -/
def Obligations.EveryOperationKeepsTheDecoderInvariant : Prop :=
  ∀ (i : Instr) (s t : State), decoderInv s → framesInv s → exec i s = .next t → decoderInv t ∧ framesInv t

/-- R122, R126: TX_OUT is at every moment a sequence of whole encoded payloads and at most one begun. -/
def Obligations.EveryStepKeepsTheOutputWellFormed : Prop :=
  ∀ s s' : State, encoderInv s → step s = .next s' → encoderInv s'

/-- R32, R37, R162, R166 and R39: a step appends at most one report to ELOG and removes none, but for C.START, which
begins a new empty log; it only appends to TX_OUT; and it writes no parameter. -/
def Obligations.OutputsAreAppendOnly : Prop :=
  ∀ s s' : State, step s = .next s' →
    (s'.elog = s.elog ∨ (∃ k, s'.elog = s.elog ++ [k]) ∨ (s.life = .absent ∧ s'.life = .running ∧ s'.elog = [])) ∧
    (∃ w, s'.txOut = s.txOut ++ w) ∧ s'.cfg = s.cfg

/-- R27, R53, R56, R58: a step leaves FQ as it is, appends one frame at its tail, hands its head over whole to the caller,
or empties it; and the results of the polls are never changed but by one more at the end. -/
def Obligations.QueueIsFirstInFirstOut : Prop :=
  ∀ s s' : State, step s = .next s' →
    (s'.polls = s.polls ∧ (s'.fq = s.fq ∨ (∃ f, s'.fq = s.fq ++ [f]) ∨ s'.fq = [])) ∨
    (∃ f, s.fq = f :: s'.fq ∧ s'.polls = s.polls ++ [.frame f]) ∨
    (s'.fq = s.fq ∧ s.fq = [] ∧ (s'.polls = s.polls ++ [.empty] ∨ s'.polls = s.polls ++ [.closed]))

/-! ### Runs of the engine and the caller -/

/-- R102: a running engine whose channel answers `byte` for each element of a sequence in turn, with no other agent's step
between, does to the decoder, the queue and the log what `feed` says, and nothing else. (The order of the agents and the
answers are placed, logs 2 and 3.) -/
def Obligations.EngineRunIsFeed : Prop :=
  ∀ (bs : List Byte) (s : State) (as : List Answer) (ts : List Turn),
    s.life = .running → s.portOwner = .block → defaultCfg s →
    s.rxIn = bs.map .byte ++ as → s.turns = List.replicate bs.length .engine ++ ts →
    runSteps bs.length s = .next
      { s with rxIn := as, turns := ts,
               openF := (feed s.regs s.fq s.elog bs).1.1, escf := (feed s.regs s.fq s.elog bs).1.2.1,
               buf := (feed s.regs s.fq s.elog bs).1.2.2, fq := (feed s.regs s.fq s.elog bs).2.1,
               elog := (feed s.regs s.fq s.elog bs).2.2 }

/-- R122: `ENCODE p` issued with TX_OPEN = 0 appends exactly `encode(p)` to TX_OUT and leaves TX_OPEN = 0. (What the caller
issues and that it moves is placed, logs 2 and 4.) -/
def Obligations.EncodeSequenceEmitsTheEncoding : Prop :=
  ∀ (p : List Byte) (s : State) (es : List CallerEvent) (ts : List Turn),
    s.txOpen = false → s.callerOps = encodeEvents p ++ es → s.turns = List.replicate (p.length + 2) .caller ++ ts →
    runSteps (p.length + 2) s = .next { s with txOut := s.txOut ++ encodePayload p, callerOps := es, turns := ts }

/-- R143, R137, R134: a stop request, joined however many turns before the engine sees the flag, waits that long and then
completes: the engine has ended, the port is the caller's, frames completed before stay queued (R147). (The
order of the agents is placed, log 2; the wait is the model's form of it, log 4.) And in every fair execution (R149 and what
R63 draws from it, log 15) a C.JOIN issued after C.STOPREQ, or on an engine that has ended, completes: there is a later step
at which the engine has ended and the caller's turn takes the port and finishes the operation. -/
def Obligations.JoinWaitsForTheEngineAndCompletes : Prop :=
  (∀ (k : Nat) (s : State) (es : List CallerEvent) (ts : List Turn),
    s.life = .running → s.cancel = true → s.callerOps = .join :: es →
    s.turns = List.replicate k .caller ++ (.ack :: .caller :: ts) →
    runSteps (k + 2) s = .next
      { s with life := .stopped, portOwner := .external, openF := false, escf := false, buf := [],
               callerOps := es, turns := ts }) ∧
  (∀ (e : Nat → State) (n : Nat), IsExecution e → Fair e →
    (e n).life ≠ .absent → ((e n).life = .running → (e n).cancel = true) → (e n).callerOps.head? = some .join →
    ∃ m, n ≤ m ∧ ((e m).life = .stopped ∨ (e m).life = .terminated) ∧ (takeTurn (e m)).1 = .caller ∧
      (e m).callerOps.head? = some .join ∧
      step (e m) =
        .next { (takeTurn (e m)).2 with portOwner := .external, callerOps := (e m).callerOps.drop 1 })

/-- R143, R138: dropping a running engine is stopping, joining and dropping it, the engine taking its step between. (The
order of the agents is placed, log 2; the operations in progress are the model's form of the sequence, log 4.) -/
def Obligations.DropOfARunningEngineStopsItFirst : Prop :=
  ∀ (k : Nat) (s : State) (es : List CallerEvent) (ts : List Turn),
    s.life = .running → s.callerOps = .drop :: es →
    s.turns = .caller :: (List.replicate k .caller ++ (.ack :: .caller :: .caller :: ts)) →
    runSteps (k + 4) s = .next
      { s with life := .absent, portOwner := .external, openF := false, escf := false, buf := [], fq := [],
               cancel := false, callerOps := es, turns := ts }

/-- R143: REPLACE leaves a new engine in the state of R44, whatever the old one was in the middle of. (The order of the
agents is placed, log 2; the wait in C.JOIN is the model's form of it, log 4.) -/
def Obligations.ReplaceGivesAFreshEngine : Prop :=
  ∀ (k : Nat) (s : State) (es : List CallerEvent) (ts : List Turn),
    s.life = .running → s.callerOps = replaceEvents ++ es →
    s.turns = .caller :: (List.replicate k .caller ++ (.ack :: .caller :: .caller :: .caller :: ts)) →
    runSteps (k + 5) s = .next
      { s with life := .running, portOwner := .block, openF := false, escf := false, buf := [], fq := [], elog := [],
               cancel := false, callerOps := es, turns := ts }

/-- R61: after the engine has ended, turns of the engine do nothing: no byte is taken, nothing pushed, nothing reported.
(A turn without an enabled step passes, log 12.) -/
def Obligations.EndedEngineTakesNoStep : Prop :=
  ∀ (us ts : List Turn) (s : State), s.life ≠ .running → (∀ u ∈ us, u = .engine ∨ u = .ack) → s.turns = us ++ ts →
    runSteps us.length s = .next { s with turns := ts }

/-! ### Laws of the codec -/

/-- R104: the round trip. -/
def Obligations.RoundTrip : Prop :=
  ∀ (p : List Byte) (q : List Frame) (e : List Report),
    feed Regs.start q e (encodePayload p) = (Regs.start, q ++ [0xC0#8 :: (p ++ [0xC0#8])], e)

/-- R105: frames among noise: `n0` and then pairs of a payload and the noise after it. -/
def Obligations.FramesAmongNoise : Prop :=
  ∀ (n0 : List Byte) (l : List (List Byte × List Byte)),
    0xC0#8 ∉ n0 → (∀ x ∈ l, 0xC0#8 ∉ x.2) →
    let bs := n0 ++ l.flatMap (fun x => encodePayload x.1 ++ x.2)
    framesOf bs = l.map (fun x => 0xC0#8 :: (x.1 ++ [0xC0#8])) ∧
    reportsOf bs = List.replicate (n0.length + (l.map (fun x => x.2.length)).sum) .unexpectedByte ∧
    (feed Regs.start [] [] bs).1 = Regs.start

/-- R107: decoding any well-formed wire frame, and its three laws about `unesc`. -/
def Obligations.WellFormedWireFramesDecode : Prop :=
  (∀ (w : List Byte) (q : List Frame) (e : List Report), wellFormedBody w = true →
    feed Regs.start q e (0xC0#8 :: (w ++ [0xC0#8])) =
      (Regs.start, q ++ [0xC0#8 :: (unescapeBody w ++ [0xC0#8])], e)) ∧
  (∀ p : List Byte, unescapeBody (escapeBody p) = p) ∧
  (∀ w : List Byte, wellFormedBody w = true → w = escapeBody (unescapeBody w))

/-- R123: delimiter freedom: `encode(p)` has a delimiter first and last and nowhere else, it is a well-formed wire frame,
and every well-formed wire frame is `encode(p)` for exactly one `p`. -/
def Obligations.EncodingIsDelimiterFree : Prop :=
  (∀ p : List Byte, (encodePayload p).head? = some 0xC0#8 ∧ (encodePayload p).getLast? = some 0xC0#8 ∧
    0xC0#8 ∉ ((encodePayload p).drop 1).dropLast ∧ wellFormedBody (escapeBody p) = true ∧
    encodePayload p = 0xC0#8 :: (escapeBody p ++ [0xC0#8])) ∧
  (∀ w : List Byte, wellFormedBody w = true → ∃ p : List Byte, encodePayload p = 0xC0#8 :: (w ++ [0xC0#8]) ∧
    ∀ p' : List Byte, encodePayload p' = 0xC0#8 :: (w ++ [0xC0#8]) → p' = p)

/-- R124: the length law, its bounds and when they are reached. -/
def Obligations.EncodedLength : Prop :=
  ∀ p : List Byte,
    (encodePayload p).length = p.length + 2 + p.count 0xC0#8 + p.count 0xDB#8 ∧
    p.length + 2 ≤ (encodePayload p).length ∧ (encodePayload p).length ≤ 2 * p.length + 2 ∧
    ((encodePayload p).length = p.length + 2 ↔ (0xC0#8 ∉ p ∧ 0xDB#8 ∉ p)) ∧
    ((encodePayload p).length = 2 * p.length + 2 ↔ ∀ b ∈ p, b = 0xC0#8 ∨ b = 0xDB#8)

/-- R125: `encode` is injective. -/
def Obligations.EncodingIsInjective : Prop :=
  ∀ p p' : List Byte, encodePayload p = encodePayload p' → p = p'

/-- R58, R167: what a stream does is what its first part does and then what the rest does from there; so frames completed
and errors reported by a part of a stream are never taken back by what follows. -/
def Obligations.StreamsAreDecodedInOrder : Prop :=
  ∀ (d : Regs) (q : List Frame) (e : List Report) (bs cs : List Byte),
    feed d q e (bs ++ cs) = feed (feed d q e bs).1 (feed d q e bs).2.1 (feed d q e bs).2.2 cs ∧
    (∃ fs, (feed d q e (bs ++ cs)).2.1 = (feed d q e bs).2.1 ++ fs) ∧
    (∃ ks, (feed d q e (bs ++ cs)).2.2 = (feed d q e bs).2.2 ++ ks)

/-! ### Hazards -/

/-- R194: in `C0 a C0 b C0` only the first frame is delivered, the bytes of `b` are errors, and the third delimiter opens
a frame that stays open. -/
def Obligations.NoSharedDelimiter : Prop :=
  ∀ (p b : List Byte) (q : List Frame) (e : List Report), 0xC0#8 ∉ b →
    feed Regs.start q e (encodePayload p ++ b ++ [0xC0#8]) =
      ((true, false, [0xC0#8]), q ++ [0xC0#8 :: (p ++ [0xC0#8])], e ++ List.replicate b.length .unexpectedByte)

/-- R196: phase inversion persists: over frames sent back to back into a stale open frame, each opening delimiter closes
the stale frame, each byte between is an error, each closing delimiter opens a new stale frame; no payload is delivered. -/
def Obligations.PhaseInversionPersists : Prop :=
  ∀ (u : List Byte) (p : List Byte) (ps : List (List Byte)) (q : List Frame) (e : List Report),
    feed (true, false, u) q e ((p :: ps).flatMap encodePayload) =
      ((true, false, [0xC0#8]),
        q ++ (u ++ [0xC0#8]) :: List.replicate ps.length [0xC0#8, 0xC0#8],
        e ++ List.replicate ((p :: ps).map (fun x => (escapeBody x).length)).sum .unexpectedByte)

/-- R165: after a framing error every byte is an error until a delimiter, which opens a new frame. -/
def Obligations.ResynchronisesOnTheNextDelimiter : Prop :=
  ∀ (b : Byte) (u n : List Byte) (q : List Frame) (e : List Report),
    b ≠ 0xDC#8 → b ≠ 0xDD#8 → 0xC0#8 ∉ n →
    feed (true, true, u) q e (b :: (n ++ [0xC0#8])) =
      ((true, false, [0xC0#8]), q, e ++ .invalidEscape :: List.replicate n.length .unexpectedByte)

/-- R203: the round trip needs mode IDLE: from BODY the stale frame is delivered and the payload lost; from ESCAPE the
payload is lost to an InvalidEscape. -/
def Obligations.RoundTripNeedsIdle : Prop :=
  ∀ (u p : List Byte) (q : List Frame) (e : List Report),
    feed (true, false, u) q e (encodePayload p) =
      ((true, false, [0xC0#8]), q ++ [u ++ [0xC0#8]],
        e ++ List.replicate (escapeBody p).length .unexpectedByte) ∧
    feed (true, true, u) q e (encodePayload p) =
      ((true, false, [0xC0#8]), q, e ++ .invalidEscape :: List.replicate (escapeBody p).length .unexpectedByte)
end

