-- ==== Sys2Proof/Laws/Decode.lean ====
section
/-!
SUPPORT. What the selection of operations says of the byte: the class of each special byte, and the byte of each class.
-/

namespace Sys2Proof

/-! The four constants are four different bytes (00_scope R6). -/

@[simp] theorem DELIM_ne_ESC : ¬(DELIM = ESC) := by decide
@[simp] theorem DELIM_ne_SUB_DELIM : ¬(DELIM = SUB_DELIM) := by decide
@[simp] theorem DELIM_ne_SUB_ESC : ¬(DELIM = SUB_ESC) := by decide
@[simp] theorem ESC_ne_DELIM : ¬(ESC = DELIM) := by decide
@[simp] theorem ESC_ne_SUB_DELIM : ¬(ESC = SUB_DELIM) := by decide
@[simp] theorem ESC_ne_SUB_ESC : ¬(ESC = SUB_ESC) := by decide
@[simp] theorem SUB_DELIM_ne_DELIM : ¬(SUB_DELIM = DELIM) := by decide
@[simp] theorem SUB_DELIM_ne_ESC : ¬(SUB_DELIM = ESC) := by decide
@[simp] theorem SUB_DELIM_ne_SUB_ESC : ¬(SUB_DELIM = SUB_ESC) := by decide
@[simp] theorem SUB_ESC_ne_DELIM : ¬(SUB_ESC = DELIM) := by decide
@[simp] theorem SUB_ESC_ne_ESC : ¬(SUB_ESC = ESC) := by decide
@[simp] theorem SUB_ESC_ne_SUB_DELIM : ¬(SUB_ESC = SUB_DELIM) := by decide

@[simp] theorem classOf_DELIM : classOf DELIM = .delim := rfl
@[simp] theorem classOf_ESC : classOf ESC = .esc := rfl
@[simp] theorem classOf_SUB_DELIM : classOf SUB_DELIM = .subDelim := rfl
@[simp] theorem classOf_SUB_ESC : classOf SUB_ESC = .subEsc := rfl

/-- Every byte is one of the four special bytes or in the fifth class (30_encoding R72). -/
theorem byte_cases (b : Byte) :
    b = DELIM ∨ b = ESC ∨ b = SUB_DELIM ∨ b = SUB_ESC ∨
      (b ≠ DELIM ∧ b ≠ ESC ∧ b ≠ SUB_DELIM ∧ b ≠ SUB_ESC ∧ classOf b = .other) := by
  by_cases h1 : b = DELIM
  · exact .inl h1
  by_cases h2 : b = ESC
  · exact .inr (.inl h2)
  by_cases h3 : b = SUB_DELIM
  · exact .inr (.inr (.inl h3))
  by_cases h4 : b = SUB_ESC
  · exact .inr (.inr (.inr (.inl h4)))
  · exact .inr (.inr (.inr (.inr ⟨h1, h2, h3, h4, by simp [classOf, h1, h2, h3, h4]⟩)))

/-- The row of mode IDLE (30_encoding R74). -/
theorem decodeRx_idle (b : Byte) : decodeRx .idle b = if b = DELIM then .dOpen else .dJunk b := by
  obtain rfl | rfl | rfl | rfl | ⟨h, -, -, -, hc⟩ := byte_cases b
  all_goals first | rfl | simp [decodeRx, hc, h]

/-- The row of mode BODY (30_encoding R74). -/
theorem decodeRx_body (b : Byte) :
    decodeRx .body b = if b = ESC then .dEsc else if b = DELIM then .dClose else .dLit b := by
  obtain rfl | rfl | rfl | rfl | ⟨h1, h2, -, -, hc⟩ := byte_cases b
  all_goals first | rfl | simp [decodeRx, hc, h1, h2]

/-- The row of mode ESCAPE (30_encoding R74). -/
theorem decodeRx_escape (b : Byte) :
    decodeRx .escape b = if b = SUB_DELIM then .dXdelim else if b = SUB_ESC then .dXesc else .dBadesc b := by
  obtain rfl | rfl | rfl | rfl | ⟨-, -, h1, h2, hc⟩ := byte_cases b
  all_goals first | rfl | simp [decodeRx, hc, h1, h2]

/-- The encoder's selection (30_encoding R76). -/
theorem decodeTx_eq (b : Byte) :
    decodeTx b = if b = DELIM then .eXdelim else if b = ESC then .eXesc else .eLit b := by
  obtain rfl | rfl | rfl | rfl | ⟨h1, h2, -, -, hc⟩ := byte_cases b
  all_goals first | rfl | simp [decodeTx, hc, h1, h2]

end Sys2Proof
end

