-- ==== Sys2Proof/Laws/State.lean ====
section
/-!
SUPPORT. What each named update of the state leaves in each field: one lemma per field per update, true by definition.
-/

namespace Sys2Proof.Machine

/-! ### `setDecoder` -/

@[simp] theorem State.setDecoder_openF (o x : Bool) (u : List Byte) (s : State) : (s.setDecoder o x u).openF = o := rfl
@[simp] theorem State.setDecoder_escf (o x : Bool) (u : List Byte) (s : State) : (s.setDecoder o x u).escf = x := rfl
@[simp] theorem State.setDecoder_buf (o x : Bool) (u : List Byte) (s : State) : (s.setDecoder o x u).buf = u := rfl
@[simp] theorem State.setDecoder_fq (o x : Bool) (u : List Byte) (s : State) : (s.setDecoder o x u).fq = s.fq := rfl
@[simp] theorem State.setDecoder_life (o x : Bool) (u : List Byte) (s : State) : (s.setDecoder o x u).life = s.life := rfl
@[simp] theorem State.setDecoder_cancel (o x : Bool) (u : List Byte) (s : State) : (s.setDecoder o x u).cancel = s.cancel := rfl
@[simp] theorem State.setDecoder_elog (o x : Bool) (u : List Byte) (s : State) : (s.setDecoder o x u).elog = s.elog := rfl
@[simp] theorem State.setDecoder_txOpen (o x : Bool) (u : List Byte) (s : State) : (s.setDecoder o x u).txOpen = s.txOpen := rfl
@[simp] theorem State.setDecoder_portOwner (o x : Bool) (u : List Byte) (s : State) : (s.setDecoder o x u).portOwner = s.portOwner := rfl
@[simp] theorem State.setDecoder_txOut (o x : Bool) (u : List Byte) (s : State) : (s.setDecoder o x u).txOut = s.txOut := rfl
@[simp] theorem State.setDecoder_rxIn (o x : Bool) (u : List Byte) (s : State) : (s.setDecoder o x u).rxIn = s.rxIn := rfl
@[simp] theorem State.setDecoder_callerOps (o x : Bool) (u : List Byte) (s : State) : (s.setDecoder o x u).callerOps = s.callerOps := rfl
@[simp] theorem State.setDecoder_polls (o x : Bool) (u : List Byte) (s : State) : (s.setDecoder o x u).polls = s.polls := rfl
@[simp] theorem State.setDecoder_turns (o x : Bool) (u : List Byte) (s : State) : (s.setDecoder o x u).turns = s.turns := rfl
@[simp] theorem State.setDecoder_draws (o x : Bool) (u : List Byte) (s : State) : (s.setDecoder o x u).draws = s.draws := rfl
@[simp] theorem State.setDecoder_cfg (o x : Bool) (u : List Byte) (s : State) : (s.setDecoder o x u).cfg = s.cfg := rfl

/-! ### `clearDecoder` -/

@[simp] theorem State.clearDecoder_openF (s : State) : (s.clearDecoder).openF = false := rfl
@[simp] theorem State.clearDecoder_escf (s : State) : (s.clearDecoder).escf = false := rfl
@[simp] theorem State.clearDecoder_buf (s : State) : (s.clearDecoder).buf = [] := rfl
@[simp] theorem State.clearDecoder_fq (s : State) : (s.clearDecoder).fq = s.fq := rfl
@[simp] theorem State.clearDecoder_life (s : State) : (s.clearDecoder).life = s.life := rfl
@[simp] theorem State.clearDecoder_cancel (s : State) : (s.clearDecoder).cancel = s.cancel := rfl
@[simp] theorem State.clearDecoder_elog (s : State) : (s.clearDecoder).elog = s.elog := rfl
@[simp] theorem State.clearDecoder_txOpen (s : State) : (s.clearDecoder).txOpen = s.txOpen := rfl
@[simp] theorem State.clearDecoder_portOwner (s : State) : (s.clearDecoder).portOwner = s.portOwner := rfl
@[simp] theorem State.clearDecoder_txOut (s : State) : (s.clearDecoder).txOut = s.txOut := rfl
@[simp] theorem State.clearDecoder_rxIn (s : State) : (s.clearDecoder).rxIn = s.rxIn := rfl
@[simp] theorem State.clearDecoder_callerOps (s : State) : (s.clearDecoder).callerOps = s.callerOps := rfl
@[simp] theorem State.clearDecoder_polls (s : State) : (s.clearDecoder).polls = s.polls := rfl
@[simp] theorem State.clearDecoder_turns (s : State) : (s.clearDecoder).turns = s.turns := rfl
@[simp] theorem State.clearDecoder_draws (s : State) : (s.clearDecoder).draws = s.draws := rfl
@[simp] theorem State.clearDecoder_cfg (s : State) : (s.clearDecoder).cfg = s.cfg := rfl

/-! ### `setEscf` -/

@[simp] theorem State.setEscf_openF (v : Bool) (s : State) : (s.setEscf v).openF = s.openF := rfl
@[simp] theorem State.setEscf_escf (v : Bool) (s : State) : (s.setEscf v).escf = v := rfl
@[simp] theorem State.setEscf_buf (v : Bool) (s : State) : (s.setEscf v).buf = s.buf := rfl
@[simp] theorem State.setEscf_fq (v : Bool) (s : State) : (s.setEscf v).fq = s.fq := rfl
@[simp] theorem State.setEscf_life (v : Bool) (s : State) : (s.setEscf v).life = s.life := rfl
@[simp] theorem State.setEscf_cancel (v : Bool) (s : State) : (s.setEscf v).cancel = s.cancel := rfl
@[simp] theorem State.setEscf_elog (v : Bool) (s : State) : (s.setEscf v).elog = s.elog := rfl
@[simp] theorem State.setEscf_txOpen (v : Bool) (s : State) : (s.setEscf v).txOpen = s.txOpen := rfl
@[simp] theorem State.setEscf_portOwner (v : Bool) (s : State) : (s.setEscf v).portOwner = s.portOwner := rfl
@[simp] theorem State.setEscf_txOut (v : Bool) (s : State) : (s.setEscf v).txOut = s.txOut := rfl
@[simp] theorem State.setEscf_rxIn (v : Bool) (s : State) : (s.setEscf v).rxIn = s.rxIn := rfl
@[simp] theorem State.setEscf_callerOps (v : Bool) (s : State) : (s.setEscf v).callerOps = s.callerOps := rfl
@[simp] theorem State.setEscf_polls (v : Bool) (s : State) : (s.setEscf v).polls = s.polls := rfl
@[simp] theorem State.setEscf_turns (v : Bool) (s : State) : (s.setEscf v).turns = s.turns := rfl
@[simp] theorem State.setEscf_draws (v : Bool) (s : State) : (s.setEscf v).draws = s.draws := rfl
@[simp] theorem State.setEscf_cfg (v : Bool) (s : State) : (s.setEscf v).cfg = s.cfg := rfl

/-! ### `enqueue` -/

@[simp] theorem State.enqueue_openF (f : Frame) (s : State) : (s.enqueue f).openF = s.openF := rfl
@[simp] theorem State.enqueue_escf (f : Frame) (s : State) : (s.enqueue f).escf = s.escf := rfl
@[simp] theorem State.enqueue_buf (f : Frame) (s : State) : (s.enqueue f).buf = s.buf := rfl
@[simp] theorem State.enqueue_fq (f : Frame) (s : State) : (s.enqueue f).fq = s.fq ++ [f] := rfl
@[simp] theorem State.enqueue_life (f : Frame) (s : State) : (s.enqueue f).life = s.life := rfl
@[simp] theorem State.enqueue_cancel (f : Frame) (s : State) : (s.enqueue f).cancel = s.cancel := rfl
@[simp] theorem State.enqueue_elog (f : Frame) (s : State) : (s.enqueue f).elog = s.elog := rfl
@[simp] theorem State.enqueue_txOpen (f : Frame) (s : State) : (s.enqueue f).txOpen = s.txOpen := rfl
@[simp] theorem State.enqueue_portOwner (f : Frame) (s : State) : (s.enqueue f).portOwner = s.portOwner := rfl
@[simp] theorem State.enqueue_txOut (f : Frame) (s : State) : (s.enqueue f).txOut = s.txOut := rfl
@[simp] theorem State.enqueue_rxIn (f : Frame) (s : State) : (s.enqueue f).rxIn = s.rxIn := rfl
@[simp] theorem State.enqueue_callerOps (f : Frame) (s : State) : (s.enqueue f).callerOps = s.callerOps := rfl
@[simp] theorem State.enqueue_polls (f : Frame) (s : State) : (s.enqueue f).polls = s.polls := rfl
@[simp] theorem State.enqueue_turns (f : Frame) (s : State) : (s.enqueue f).turns = s.turns := rfl
@[simp] theorem State.enqueue_draws (f : Frame) (s : State) : (s.enqueue f).draws = s.draws := rfl
@[simp] theorem State.enqueue_cfg (f : Frame) (s : State) : (s.enqueue f).cfg = s.cfg := rfl

/-! ### `report` -/

@[simp] theorem State.report_openF (k : Report) (s : State) : (s.report k).openF = s.openF := rfl
@[simp] theorem State.report_escf (k : Report) (s : State) : (s.report k).escf = s.escf := rfl
@[simp] theorem State.report_buf (k : Report) (s : State) : (s.report k).buf = s.buf := rfl
@[simp] theorem State.report_fq (k : Report) (s : State) : (s.report k).fq = s.fq := rfl
@[simp] theorem State.report_life (k : Report) (s : State) : (s.report k).life = s.life := rfl
@[simp] theorem State.report_cancel (k : Report) (s : State) : (s.report k).cancel = s.cancel := rfl
@[simp] theorem State.report_elog (k : Report) (s : State) : (s.report k).elog = s.elog ++ [k] := rfl
@[simp] theorem State.report_txOpen (k : Report) (s : State) : (s.report k).txOpen = s.txOpen := rfl
@[simp] theorem State.report_portOwner (k : Report) (s : State) : (s.report k).portOwner = s.portOwner := rfl
@[simp] theorem State.report_txOut (k : Report) (s : State) : (s.report k).txOut = s.txOut := rfl
@[simp] theorem State.report_rxIn (k : Report) (s : State) : (s.report k).rxIn = s.rxIn := rfl
@[simp] theorem State.report_callerOps (k : Report) (s : State) : (s.report k).callerOps = s.callerOps := rfl
@[simp] theorem State.report_polls (k : Report) (s : State) : (s.report k).polls = s.polls := rfl
@[simp] theorem State.report_turns (k : Report) (s : State) : (s.report k).turns = s.turns := rfl
@[simp] theorem State.report_draws (k : Report) (s : State) : (s.report k).draws = s.draws := rfl
@[simp] theorem State.report_cfg (k : Report) (s : State) : (s.report k).cfg = s.cfg := rfl

/-! ### `txEmit` -/

@[simp] theorem State.txEmit_openF (b : Byte) (s : State) : (s.txEmit b).openF = s.openF := rfl
@[simp] theorem State.txEmit_escf (b : Byte) (s : State) : (s.txEmit b).escf = s.escf := rfl
@[simp] theorem State.txEmit_buf (b : Byte) (s : State) : (s.txEmit b).buf = s.buf := rfl
@[simp] theorem State.txEmit_fq (b : Byte) (s : State) : (s.txEmit b).fq = s.fq := rfl
@[simp] theorem State.txEmit_life (b : Byte) (s : State) : (s.txEmit b).life = s.life := rfl
@[simp] theorem State.txEmit_cancel (b : Byte) (s : State) : (s.txEmit b).cancel = s.cancel := rfl
@[simp] theorem State.txEmit_elog (b : Byte) (s : State) : (s.txEmit b).elog = s.elog := rfl
@[simp] theorem State.txEmit_txOpen (b : Byte) (s : State) : (s.txEmit b).txOpen = s.txOpen := rfl
@[simp] theorem State.txEmit_portOwner (b : Byte) (s : State) : (s.txEmit b).portOwner = s.portOwner := rfl
@[simp] theorem State.txEmit_txOut (b : Byte) (s : State) : (s.txEmit b).txOut = s.txOut ++ [b] := rfl
@[simp] theorem State.txEmit_rxIn (b : Byte) (s : State) : (s.txEmit b).rxIn = s.rxIn := rfl
@[simp] theorem State.txEmit_callerOps (b : Byte) (s : State) : (s.txEmit b).callerOps = s.callerOps := rfl
@[simp] theorem State.txEmit_polls (b : Byte) (s : State) : (s.txEmit b).polls = s.polls := rfl
@[simp] theorem State.txEmit_turns (b : Byte) (s : State) : (s.txEmit b).turns = s.turns := rfl
@[simp] theorem State.txEmit_draws (b : Byte) (s : State) : (s.txEmit b).draws = s.draws := rfl
@[simp] theorem State.txEmit_cfg (b : Byte) (s : State) : (s.txEmit b).cfg = s.cfg := rfl

/-! ### `setTxOpen` -/

@[simp] theorem State.setTxOpen_openF (v : Bool) (s : State) : (s.setTxOpen v).openF = s.openF := rfl
@[simp] theorem State.setTxOpen_escf (v : Bool) (s : State) : (s.setTxOpen v).escf = s.escf := rfl
@[simp] theorem State.setTxOpen_buf (v : Bool) (s : State) : (s.setTxOpen v).buf = s.buf := rfl
@[simp] theorem State.setTxOpen_fq (v : Bool) (s : State) : (s.setTxOpen v).fq = s.fq := rfl
@[simp] theorem State.setTxOpen_life (v : Bool) (s : State) : (s.setTxOpen v).life = s.life := rfl
@[simp] theorem State.setTxOpen_cancel (v : Bool) (s : State) : (s.setTxOpen v).cancel = s.cancel := rfl
@[simp] theorem State.setTxOpen_elog (v : Bool) (s : State) : (s.setTxOpen v).elog = s.elog := rfl
@[simp] theorem State.setTxOpen_txOpen (v : Bool) (s : State) : (s.setTxOpen v).txOpen = v := rfl
@[simp] theorem State.setTxOpen_portOwner (v : Bool) (s : State) : (s.setTxOpen v).portOwner = s.portOwner := rfl
@[simp] theorem State.setTxOpen_txOut (v : Bool) (s : State) : (s.setTxOpen v).txOut = s.txOut := rfl
@[simp] theorem State.setTxOpen_rxIn (v : Bool) (s : State) : (s.setTxOpen v).rxIn = s.rxIn := rfl
@[simp] theorem State.setTxOpen_callerOps (v : Bool) (s : State) : (s.setTxOpen v).callerOps = s.callerOps := rfl
@[simp] theorem State.setTxOpen_polls (v : Bool) (s : State) : (s.setTxOpen v).polls = s.polls := rfl
@[simp] theorem State.setTxOpen_turns (v : Bool) (s : State) : (s.setTxOpen v).turns = s.turns := rfl
@[simp] theorem State.setTxOpen_draws (v : Bool) (s : State) : (s.setTxOpen v).draws = s.draws := rfl
@[simp] theorem State.setTxOpen_cfg (v : Bool) (s : State) : (s.setTxOpen v).cfg = s.cfg := rfl

/-! ### `handOver` -/

@[simp] theorem State.handOver_openF (r : PollResult) (s : State) : (s.handOver r).openF = s.openF := rfl
@[simp] theorem State.handOver_escf (r : PollResult) (s : State) : (s.handOver r).escf = s.escf := rfl
@[simp] theorem State.handOver_buf (r : PollResult) (s : State) : (s.handOver r).buf = s.buf := rfl
@[simp] theorem State.handOver_fq (r : PollResult) (s : State) : (s.handOver r).fq = s.fq := rfl
@[simp] theorem State.handOver_life (r : PollResult) (s : State) : (s.handOver r).life = s.life := rfl
@[simp] theorem State.handOver_cancel (r : PollResult) (s : State) : (s.handOver r).cancel = s.cancel := rfl
@[simp] theorem State.handOver_elog (r : PollResult) (s : State) : (s.handOver r).elog = s.elog := rfl
@[simp] theorem State.handOver_txOpen (r : PollResult) (s : State) : (s.handOver r).txOpen = s.txOpen := rfl
@[simp] theorem State.handOver_portOwner (r : PollResult) (s : State) : (s.handOver r).portOwner = s.portOwner := rfl
@[simp] theorem State.handOver_txOut (r : PollResult) (s : State) : (s.handOver r).txOut = s.txOut := rfl
@[simp] theorem State.handOver_rxIn (r : PollResult) (s : State) : (s.handOver r).rxIn = s.rxIn := rfl
@[simp] theorem State.handOver_callerOps (r : PollResult) (s : State) : (s.handOver r).callerOps = s.callerOps := rfl
@[simp] theorem State.handOver_polls (r : PollResult) (s : State) : (s.handOver r).polls = s.polls ++ [r] := rfl
@[simp] theorem State.handOver_turns (r : PollResult) (s : State) : (s.handOver r).turns = s.turns := rfl
@[simp] theorem State.handOver_draws (r : PollResult) (s : State) : (s.handOver r).draws = s.draws := rfl
@[simp] theorem State.handOver_cfg (r : PollResult) (s : State) : (s.handOver r).cfg = s.cfg := rfl

/-! ### `callerContinues` -/

@[simp] theorem State.callerContinues_openF (es : List CallerEvent) (s : State) : (s.callerContinues es).openF = s.openF := rfl
@[simp] theorem State.callerContinues_escf (es : List CallerEvent) (s : State) : (s.callerContinues es).escf = s.escf := rfl
@[simp] theorem State.callerContinues_buf (es : List CallerEvent) (s : State) : (s.callerContinues es).buf = s.buf := rfl
@[simp] theorem State.callerContinues_fq (es : List CallerEvent) (s : State) : (s.callerContinues es).fq = s.fq := rfl
@[simp] theorem State.callerContinues_life (es : List CallerEvent) (s : State) : (s.callerContinues es).life = s.life := rfl
@[simp] theorem State.callerContinues_cancel (es : List CallerEvent) (s : State) : (s.callerContinues es).cancel = s.cancel := rfl
@[simp] theorem State.callerContinues_elog (es : List CallerEvent) (s : State) : (s.callerContinues es).elog = s.elog := rfl
@[simp] theorem State.callerContinues_txOpen (es : List CallerEvent) (s : State) : (s.callerContinues es).txOpen = s.txOpen := rfl
@[simp] theorem State.callerContinues_portOwner (es : List CallerEvent) (s : State) : (s.callerContinues es).portOwner = s.portOwner := rfl
@[simp] theorem State.callerContinues_txOut (es : List CallerEvent) (s : State) : (s.callerContinues es).txOut = s.txOut := rfl
@[simp] theorem State.callerContinues_rxIn (es : List CallerEvent) (s : State) : (s.callerContinues es).rxIn = s.rxIn := rfl
@[simp] theorem State.callerContinues_callerOps (es : List CallerEvent) (s : State) : (s.callerContinues es).callerOps = es ++ s.callerOps := rfl
@[simp] theorem State.callerContinues_polls (es : List CallerEvent) (s : State) : (s.callerContinues es).polls = s.polls := rfl
@[simp] theorem State.callerContinues_turns (es : List CallerEvent) (s : State) : (s.callerContinues es).turns = s.turns := rfl
@[simp] theorem State.callerContinues_draws (es : List CallerEvent) (s : State) : (s.callerContinues es).draws = s.draws := rfl
@[simp] theorem State.callerContinues_cfg (es : List CallerEvent) (s : State) : (s.callerContinues es).cfg = s.cfg := rfl

end Sys2Proof.Machine
end

