-- ==== Sys2Proof/Laws/Ops.lean ====
section
/-!
SUPPORT. What each shared operation can do, said once: if it answers a next state, then which; and what the fetch of a
turn brings.
-/

namespace Sys2Proof.Machine

@[simp] theorem fits_none (n : Nat) : fits none n = true := rfl

@[simp] theorem fits_some (m n : Nat) : fits (some m) n = decide (n ≤ m) := rfl

/-- What fits, fits with less. -/
theorem fits_mono {limit : Option Nat} {m n : Nat} (h : m ≤ n) (hn : fits limit n = true) : fits limit m = true := by
  cases limit with
  | none => rfl
  | some k => simp only [fits_some, decide_eq_true_eq] at hn ⊢; omega

@[simp] theorem andThen_next (s : State) (f : State → Result) : andThen (.next s) f = f s := rfl

@[simp] theorem andThen_refused (r : Refusal) (f : State → Result) : andThen (.refused r) f = .refused r := rfl

/-- A sequence answers a next state only through one of its first part. -/
theorem andThen_eq_next {r : Result} {f : State → Result} {t : State} :
    andThen r f = .next t ↔ ∃ s, r = .next s ∧ f s = .next t := by
  cases r <;> simp [andThen]

theorem storeDecoder_eq_next {o x : Bool} {u : List Byte} {s t : State} :
    storeDecoder o x u s = .next t ↔ fits s.cfg.frameMax u.length = true ∧ t = s.setDecoder o x u := by
  unfold storeDecoder; split <;> rename_i h
  · exact ⟨fun e => by cases e; exact ⟨h, rfl⟩, fun e => by rw [e.2]⟩
  · simp [h]

theorem openFrame_eq_next {s t : State} :
    openFrame s = .next t ↔ fits s.cfg.frameMax 1 = true ∧ t = s.setDecoder true false [DELIM] :=
  storeDecoder_eq_next

theorem bufAppend_eq_next {v : Byte} {s t : State} :
    bufAppend v s = .next t ↔
      fits s.cfg.frameMax (s.buf.length + 1) = true ∧ t = s.setDecoder s.openF s.escf (s.buf ++ [v]) := by
  unfold bufAppend; split <;> rename_i h
  · exact ⟨fun e => by cases e; exact ⟨h, rfl⟩, fun e => by rw [e.2]; rfl⟩
  · simp [h]

theorem fqPush_eq_next {f : Frame} {s t : State} :
    fqPush f s = .next t ↔ fits s.cfg.fqDepth (s.fq.length + 1) = true ∧ t = s.enqueue f := by
  unfold fqPush; split <;> rename_i h
  · exact ⟨fun e => by cases e; exact ⟨h, rfl⟩, fun e => by rw [e.2]⟩
  · simp [h]

/-- The framing-error entry leaves the decoder idle, or, where the offending delimiter is re-examined, just opened. -/
theorem framingError_eq_next {k : Report} {b : Byte} {s t : State} (h : framingError k b s = .next t) :
    t = (s.report k).clearDecoder ∨
      (s.cfg.reexamineOffender = true ∧ b = DELIM ∧ fits s.cfg.frameMax 1 = true ∧
        t = (s.report k).setDecoder true false [DELIM]) := by
  unfold framingError at h
  split at h
  · rename_i hc
    obtain ⟨hf, rfl⟩ := openFrame_eq_next.mp h
    simp only [Bool.and_eq_true, beq_iff_eq] at hc
    exact .inr ⟨hc.1, hc.2, by simpa using hf, rfl⟩
  · cases h; exact .inl rfl

@[simp] theorem framingError_consumed {k : Report} {b : Byte} {s : State} (h : s.cfg.reexamineOffender = false) :
    framingError k b s = .next (s.report k).clearDecoder := by
  simp [framingError, h]

theorem outsiderReads_eq_next {n : Nat} {s t : State} :
    outsiderReads n s = .next t ↔ s.portOwner = .external ∧ t = { s with rxIn := s.rxIn.drop n } := by
  unfold outsiderReads; split <;> rename_i h
  · simp [h]
  · exact ⟨fun e => by cases e; exact ⟨h, rfl⟩, fun e => by rw [e.2]⟩

theorem takeTurn_cons {s : State} {t : Turn} {ts : List Turn} (h : s.turns = t :: ts) :
    takeTurn s = (t, { s with turns := ts }) := by
  simp [takeTurn, h]

theorem rxTake_cons {s : State} {a : Answer} {as : List Answer} (h : s.rxIn = a :: as) :
    rxTake s = (a, { s with rxIn := as }) := by
  simp [rxTake, h]

theorem nextCaller_cons {s : State} {e : CallerEvent} {es : List CallerEvent} (h : s.callerOps = e :: es) :
    nextCaller s = (e, { s with callerOps := es }) := by
  simp [nextCaller, h]

/-- Two states with the same block: the ten elements of 10_state R20, the results handed over and the parameters. -/
structure SameBlock (s t : State) : Prop where
  openF : t.openF = s.openF
  escf : t.escf = s.escf
  buf : t.buf = s.buf
  fq : t.fq = s.fq
  life : t.life = s.life
  cancel : t.cancel = s.cancel
  elog : t.elog = s.elog
  txOpen : t.txOpen = s.txOpen
  portOwner : t.portOwner = s.portOwner
  txOut : t.txOut = s.txOut
  polls : t.polls = s.polls
  cfg : t.cfg = s.cfg

theorem SameBlock.refl (s : State) : SameBlock s s := ⟨rfl, rfl, rfl, rfl, rfl, rfl, rfl, rfl, rfl, rfl, rfl, rfl⟩

theorem SameBlock.trans {s t u : State} (h : SameBlock s t) (k : SameBlock t u) : SameBlock s u :=
  ⟨k.openF.trans h.openF, k.escf.trans h.escf, k.buf.trans h.buf, k.fq.trans h.fq, k.life.trans h.life,
    k.cancel.trans h.cancel, k.elog.trans h.elog, k.txOpen.trans h.txOpen, k.portOwner.trans h.portOwner,
    k.txOut.trans h.txOut, k.polls.trans h.polls, k.cfg.trans h.cfg⟩

/-- Taking a turn leaves the block as it is. -/
theorem takeTurn_sameBlock (s : State) : SameBlock s (takeTurn s).2 := by
  unfold takeTurn; split <;> constructor <;> rfl

/-- The fetch of a turn leaves the block as it is. -/
theorem fetch_sameBlock (t : Turn) (s : State) : SameBlock s (fetch t s).2 := by
  cases t with
  | engine => simp only [fetch]; split <;> [(unfold rxTake; split); skip] <;> constructor <;> rfl
  | ack => simp only [fetch]; split <;> constructor <;> rfl
  | caller => simp only [fetch]; unfold nextCaller; split <;> constructor <;> rfl
  | outsider n => exact .refl s

theorem fetch_engine {s : State} (h : s.canRead = true) :
    fetch .engine s = (some (.answer (rxTake s).1), (rxTake s).2) := by
  simp [fetch, h]

theorem fetch_engine_none {s : State} (h : s.canRead = false) : fetch .engine s = (none, s) := by
  simp [fetch, h]

theorem fetch_ack {s : State} (h : s.canStop = true) : fetch .ack s = (some .cancelSeen, s) := by
  simp [fetch, h]

theorem fetch_ack_none {s : State} (h : s.canStop = false) : fetch .ack s = (none, s) := by
  simp [fetch, h]

/-- The engine's turns fetch only where the engine has a step enabled (42_receiver R130). -/
theorem fetch_engine_canRead {s : State} {x : Input} (h : (fetch .engine s).1 = some x) :
    s.canRead = true ∧ ∃ a, x = .answer a := by
  simp only [fetch] at h
  split at h <;> rename_i hr
  · exact ⟨hr, _, (Option.some.inj h).symm⟩
  · cases h

theorem fetch_ack_canStop {s : State} {x : Input} (h : (fetch .ack s).1 = some x) :
    s.canStop = true ∧ x = .cancelSeen := by
  simp only [fetch] at h; split at h <;> simp_all

theorem fetch_caller_event {s : State} {x : Input} (h : (fetch .caller s).1 = some x) :
    ∃ e, x = .caller e := by
  simp only [fetch, Option.some.injEq] at h; exact ⟨_, h.symm⟩

end Sys2Proof.Machine
end

