-- ==== Sys2Proof/Laws/Exec.lean ====
section
/-!
SUPPORT. What each meaning can do, said once: if it answers a next state, then under which condition and which state.
-/

namespace Sys2Proof.Machine

theorem execDOpen_next {s t : State} (h : execDOpen s = .next t) :
    s.mode = .idle ∧ fits s.cfg.frameMax 1 = true ∧ t = s.setDecoder true false [DELIM] := by
  unfold execDOpen at h
  split at h
  · exact ⟨‹_›, openFrame_eq_next.mp h⟩
  · cases h

theorem execDJunk_next {b : Byte} {s t : State} (h : execDJunk b s = .next t) :
    s.mode = .idle ∧ b ≠ DELIM ∧ t = (s.report .unexpectedByte).clearDecoder := by
  unfold execDJunk at h
  split at h
  · rename_i hc
    rcases framingError_eq_next h with h | ⟨-, hb, -⟩
    · exact ⟨hc.1, hc.2, h⟩
    · exact absurd hb hc.2
  · cases h

theorem execDEsc_next {s t : State} (h : execDEsc s = .next t) : s.mode = .body ∧ t = s.setEscf true := by
  unfold execDEsc at h
  split at h <;> cases h
  exact ⟨‹_›, rfl⟩

theorem execDClose_next {s t : State} (h : execDClose s = .next t) :
    s.mode = .body ∧ fits s.cfg.fqDepth (s.fq.length + 1) = true ∧
      t = (s.enqueue (s.buf ++ [DELIM])).clearDecoder := by
  unfold execDClose at h
  split at h
  · obtain ⟨u, hu, hv⟩ := andThen_eq_next.mp h
    cases hv
    obtain ⟨hf, rfl⟩ := fqPush_eq_next.mp hu
    exact ⟨‹_›, hf, rfl⟩
  · cases h

theorem execDLit_next {b : Byte} {s t : State} (h : execDLit b s = .next t) :
    s.mode = .body ∧ b ≠ DELIM ∧ b ≠ ESC ∧ fits s.cfg.frameMax (s.buf.length + 1) = true ∧
      t = s.setDecoder s.openF s.escf (s.buf ++ [b]) := by
  unfold execDLit at h
  split at h
  · rename_i hc; exact ⟨hc.1, hc.2.1, hc.2.2, bufAppend_eq_next.mp h⟩
  · cases h

/-- What appending the value of an escape pair leaves. -/
theorem appendPair_next {v : Byte} {s t : State}
    (h : andThen (bufAppend v s) (fun t => .next (t.setEscf false)) = .next t) :
    fits s.cfg.frameMax (s.buf.length + 1) = true ∧ t = s.setDecoder s.openF false (s.buf ++ [v]) := by
  obtain ⟨u, hu, hv⟩ := andThen_eq_next.mp h
  cases hv
  obtain ⟨hf, rfl⟩ := bufAppend_eq_next.mp hu
  exact ⟨hf, rfl⟩

theorem execDXdelim_next {s t : State} (h : execDXdelim s = .next t) :
    s.mode = .escape ∧ fits s.cfg.frameMax (s.buf.length + 1) = true ∧
      t = s.setDecoder s.openF false (s.buf ++ [DELIM]) := by
  unfold execDXdelim at h
  split at h
  · exact ⟨‹_›, appendPair_next h⟩
  · cases h

theorem execDXesc_next {s t : State} (h : execDXesc s = .next t) :
    s.mode = .escape ∧ fits s.cfg.frameMax (s.buf.length + 1) = true ∧
      t = s.setDecoder s.openF false (s.buf ++ [ESC]) := by
  unfold execDXesc at h
  split at h
  · exact ⟨‹_›, appendPair_next h⟩
  · cases h

theorem execDBadesc_next {b : Byte} {s t : State} (h : execDBadesc b s = .next t) :
    s.mode = .escape ∧ b ≠ SUB_DELIM ∧ b ≠ SUB_ESC ∧
      (t = (s.report .invalidEscape).clearDecoder ∨
        (s.cfg.reexamineOffender = true ∧ b = DELIM ∧ fits s.cfg.frameMax 1 = true ∧
          t = (s.report .invalidEscape).setDecoder true false [DELIM])) := by
  unfold execDBadesc at h
  split at h
  · rename_i hc; exact ⟨hc.1, hc.2.1, hc.2.2, framingError_eq_next h⟩
  · cases h

theorem execEStart_next {s t : State} (h : execEStart s = .next t) :
    s.txOpen = false ∧ t = (s.txEmit DELIM).setTxOpen true := by
  unfold execEStart at h
  split at h
  · cases h
  · rename_i hc; cases h; exact ⟨by simpa using hc, rfl⟩

theorem execEXdelim_next {s t : State} (h : execEXdelim s = .next t) :
    s.txOpen = true ∧ t = (s.txEmit ESC).txEmit SUB_DELIM := by
  unfold execEXdelim at h
  split at h <;> cases h
  exact ⟨‹_›, rfl⟩

theorem execEXesc_next {s t : State} (h : execEXesc s = .next t) :
    s.txOpen = true ∧ t = (s.txEmit ESC).txEmit SUB_ESC := by
  unfold execEXesc at h
  split at h <;> cases h
  exact ⟨‹_›, rfl⟩

theorem execELit_next {b : Byte} {s t : State} (h : execELit b s = .next t) :
    b ≠ DELIM ∧ b ≠ ESC ∧ s.txOpen = true ∧ t = s.txEmit b := by
  unfold execELit at h
  split at h
  · cases h
  · rename_i hb
    split at h <;> cases h
    exact ⟨fun e => hb (.inl e), fun e => hb (.inr e), ‹_›, rfl⟩

theorem execEEnd_next {s t : State} (h : execEEnd s = .next t) :
    s.txOpen = true ∧ t = (s.txEmit DELIM).setTxOpen false := by
  unfold execEEnd at h
  split at h <;> cases h
  exact ⟨‹_›, rfl⟩

/-- RX.BYTE stores the registers `decode_step` gives, and pushes the frame it completes, or takes its error. -/
theorem execRxByte_next {b : Byte} {s t : State} (h : execRxByte b s = .next t) :
    s.canRead = true ∧
      ((∃ o x u, decodeStep b s.openF s.escf s.buf = .ok o x u none ∧ fits s.cfg.frameMax u.length = true ∧
          t = s.setDecoder o x u) ∨
        (∃ o x u f, decodeStep b s.openF s.escf s.buf = .ok o x u (some f) ∧ fits s.cfg.frameMax u.length = true ∧
          fits s.cfg.fqDepth (s.fq.length + 1) = true ∧ t = (s.setDecoder o x u).enqueue f) ∨
        (∃ k, decodeStep b s.openF s.escf s.buf = .err k ∧ framingError k b s = .next t)) := by
  unfold execRxByte at h
  split at h
  · refine ⟨‹_›, ?_⟩
    split at h
    · rename_i hd
      obtain ⟨hf, rfl⟩ := storeDecoder_eq_next.mp h
      exact .inl ⟨_, _, _, hd, hf, rfl⟩
    · rename_i hd
      obtain ⟨u, hu, hv⟩ := andThen_eq_next.mp h
      obtain ⟨hf, rfl⟩ := storeDecoder_eq_next.mp hu
      obtain ⟨hq, rfl⟩ := fqPush_eq_next.mp hv
      exact .inr (.inl ⟨_, _, _, _, hd, hf, hq, rfl⟩)
    · rename_i hd; exact .inr (.inr ⟨_, hd, h⟩)
  · cases h

theorem execRxIdle_next {s t : State} (h : execRxIdle s = .next t) : s.canRead = true ∧ t = s := by
  unfold execRxIdle at h
  split at h <;> cases h
  exact ⟨‹_›, rfl⟩

theorem execRxIoerr_next {s t : State} (h : execRxIoerr s = .next t) : s.canRead = true ∧ t = ioErrorEntry s := by
  unfold execRxIoerr at h
  split at h <;> cases h
  exact ⟨‹_›, rfl⟩

theorem execRxStopack_next {s t : State} (h : execRxStopack s = .next t) :
    s.canStop = true ∧ t = { s.clearDecoder with life := .stopped } := by
  unfold execRxStopack at h
  split at h <;> cases h
  exact ⟨‹_›, rfl⟩

theorem execCStart_next {s t : State} (h : execCStart s = .next t) :
    s.life = .absent ∧ s.portOwner = .external ∧
      t = { s.clearDecoder with fq := [], elog := [], cancel := false, portOwner := .block, life := .running } := by
  unfold execCStart at h
  split at h <;> cases h
  rename_i hc; exact ⟨hc.1, hc.2, rfl⟩

theorem execCStopreq_next {s t : State} (h : execCStopreq s = .next t) :
    s.life ≠ .absent ∧ t = { s with cancel := true } := by
  unfold execCStopreq at h
  split at h <;> cases h <;> rename_i hl <;> exact ⟨by simp [hl], rfl⟩

theorem execCJoin_next {s t : State} (h : execCJoin s = .next t) :
    (s.life = .running ∧ t = s.callerContinues [.join]) ∨
      ((s.life = .stopped ∨ s.life = .terminated) ∧ t = { s with portOwner := .external }) := by
  unfold execCJoin at h
  split at h <;> cases h <;> rename_i hl
  · exact .inl ⟨hl, rfl⟩
  · exact .inr ⟨.inl hl, rfl⟩
  · exact .inr ⟨.inr hl, rfl⟩

theorem execCDrop_next {s t : State} (h : execCDrop s = .next t) :
    (s.life = .running ∧ t = ({ s with cancel := true } : State).callerContinues [.join, .drop]) ∨
      ((s.life = .stopped ∨ s.life = .terminated) ∧
        t = { s.clearDecoder with fq := [], cancel := false, portOwner := .external, life := .absent }) := by
  unfold execCDrop at h
  split at h <;> cases h <;> rename_i hl
  · exact .inl ⟨hl, rfl⟩
  · exact .inr ⟨.inl hl, rfl⟩
  · exact .inr ⟨.inr hl, rfl⟩

theorem execCFlush_next {s t : State} (h : execCFlush s = .next t) :
    s.life ≠ .absent ∧
      ((s.cfg.flushClearsDecoder = true ∧ t = channelClear { s.clearDecoder with fq := [] }) ∨
        (s.cfg.flushClearsDecoder = false ∧ t = channelClear { s with fq := [] })) := by
  unfold execCFlush at h
  split at h <;> cases h <;> rename_i hl <;> refine ⟨by simp [hl], ?_⟩ <;>
    cases hc : s.cfg.flushClearsDecoder <;> simp

theorem execQPop_next {s t : State} (h : execQPop s = .next t) :
    s.life ≠ .absent ∧
      ((∃ f q, s.fq = f :: q ∧ t = ({ s with fq := q } : State).handOver (.frame f)) ∨
        (s.fq = [] ∧ s.life = .running ∧ t = s.handOver .empty) ∨
        (s.fq = [] ∧ s.life ≠ .running ∧ t = s.handOver .closed)) := by
  unfold execQPop at h
  split at h <;> cases h
  · rename_i hq hl; exact ⟨hl, .inl ⟨_, _, hq, rfl⟩⟩
  · rename_i hl hq; exact ⟨by simp [hl], .inr (.inl ⟨hq, hl, rfl⟩)⟩
  · rename_i hl hq; exact ⟨by simp [hl], .inr (.inr ⟨hq, by simp [hl], rfl⟩)⟩
  · rename_i hl hq; exact ⟨by simp [hl], .inr (.inr ⟨hq, by simp [hl], rfl⟩)⟩

end Sys2Proof.Machine
end

