-- ==== Sys2Proof/Laws/PerInstr.lean ====
section
/-!
SUPPORT. Statements about every operation as syntax, one lemma per constructor. NoSharedInput: no input selects two
operations (the decode table's cells do not overlap, 30_encoding R74, R78).
-/

namespace Sys2Proof.Laws.NoSharedInput

/-- No other well-formed operation has the input of `i`. -/
def Statement (i : Instr) : Prop :=
  ∀ j : Instr, i.wellFormed = true → j.wellFormed = true → encode i = encode j → i = j

theorem dOpen : Statement .dOpen := by
  intro j hi hj h; cases j <;> simp_all [encode, Instr.wellFormed]

theorem dJunk (b : Byte) : Statement (.dJunk b) := by
  intro j hi hj h; cases j <;> simp_all [encode, Instr.wellFormed]

theorem dEsc : Statement .dEsc := by
  intro j hi hj h; cases j <;> simp_all [encode, Instr.wellFormed]

theorem dClose : Statement .dClose := by
  intro j hi hj h; cases j <;> simp_all [encode, Instr.wellFormed]

theorem dLit (b : Byte) : Statement (.dLit b) := by
  intro j hi hj h; cases j <;> simp_all [encode, Instr.wellFormed]

theorem dXdelim : Statement .dXdelim := by
  intro j hi hj h; cases j <;> simp_all [encode, Instr.wellFormed]

theorem dXesc : Statement .dXesc := by
  intro j hi hj h; cases j <;> simp_all [encode, Instr.wellFormed]

theorem dBadesc (b : Byte) : Statement (.dBadesc b) := by
  intro j hi hj h; cases j <;> simp_all [encode, Instr.wellFormed]

theorem eStart : Statement .eStart := by
  intro j hi hj h; cases j <;> simp_all [encode, Instr.wellFormed]

theorem eXdelim : Statement .eXdelim := by
  intro j hi hj h; cases j <;> simp_all [encode, Instr.wellFormed]

theorem eXesc : Statement .eXesc := by
  intro j hi hj h; cases j <;> simp_all [encode, Instr.wellFormed]

theorem eLit (b : Byte) : Statement (.eLit b) := by
  intro j hi hj h; cases j <;> simp_all [encode, Instr.wellFormed]

theorem eEnd : Statement .eEnd := by
  intro j hi hj h; cases j <;> simp_all [encode, Instr.wellFormed]

theorem rxByte (b : Byte) : Statement (.rxByte b) := by
  intro j hi hj h; cases j <;> simp_all [encode, Instr.wellFormed]

theorem rxIdle : Statement .rxIdle := by
  intro j hi hj h; cases j <;> simp_all [encode, Instr.wellFormed]

theorem rxIoerr : Statement .rxIoerr := by
  intro j hi hj h; cases j <;> simp_all [encode, Instr.wellFormed]

theorem rxStopack : Statement .rxStopack := by
  intro j hi hj h; cases j <;> simp_all [encode, Instr.wellFormed]

theorem cStart : Statement .cStart := by
  intro j hi hj h; cases j <;> simp_all [encode, Instr.wellFormed]

theorem cStopreq : Statement .cStopreq := by
  intro j hi hj h; cases j <;> simp_all [encode, Instr.wellFormed]

theorem cJoin : Statement .cJoin := by
  intro j hi hj h; cases j <;> simp_all [encode, Instr.wellFormed]

theorem cDrop : Statement .cDrop := by
  intro j hi hj h; cases j <;> simp_all [encode, Instr.wellFormed]

theorem cFlush : Statement .cFlush := by
  intro j hi hj h; cases j <;> simp_all [encode, Instr.wellFormed]

theorem qPop : Statement .qPop := by
  intro j hi hj h; cases j <;> simp_all [encode, Instr.wellFormed]

end Sys2Proof.Laws.NoSharedInput
end

