-- ==== Sys2Proof/Laws/Step.lean ====
section
/-!
SUPPORT. What a step can do, said once: the operation of a fetched input runs on a state with the same block, or the
block stays as it is.
-/

namespace Sys2Proof.Machine

/-- The operation a step runs is one that a port event selects: never a decoder operation by itself (40_decoder R90). -/
inductive PortInput : Input → Prop where
  | answer (a : Answer) : PortInput (.answer a)
  | cancelSeen : PortInput .cancelSeen
  | caller (e : CallerEvent) : PortInput (.caller e)

/-- One step: an operation selected by a port event runs on a state with the same block, or no operation runs and the
block is unchanged. -/
theorem step_cases {s s' : State} (h : step s = .next s') :
    (∃ x t, PortInput x ∧ SameBlock s t ∧ exec (decode x) t = .next s') ∨ SameBlock s s' := by
  have h1 := takeTurn_sameBlock s
  unfold step at h
  generalize (takeTurn s).1 = u at h
  generalize (takeTurn s).2 = r at h h1
  have h2 := h1.trans (fetch_sameBlock u r)
  have run (hp : ∀ x, (fetch u r).1 = some x → PortInput x) (hr : runFetched (fetch u r) = .next s') :
      (∃ x t, PortInput x ∧ SameBlock s t ∧ exec (decode x) t = .next s') ∨ SameBlock s s' := by
    unfold runFetched at hr
    split at hr
    · rename_i x hx; exact .inl ⟨x, _, hp x hx, h2, hr⟩
    · cases hr; exact .inr h2
  cases u with
  | engine => exact run (fun x hx => by obtain ⟨-, a, rfl⟩ := fetch_engine_canRead hx; exact .answer a) h
  | ack => exact run (fun x hx => by obtain ⟨-, rfl⟩ := fetch_ack_canStop hx; exact .cancelSeen) h
  | caller => exact run (fun x hx => by obtain ⟨e, rfl⟩ := fetch_caller_event hx; exact .caller e) h
  | outsider n =>
    obtain ⟨-, rfl⟩ := outsiderReads_eq_next.mp h
    exact .inr (h1.trans ⟨rfl, rfl, rfl, rfl, rfl, rfl, rfl, rfl, rfl, rfl, rfl, rfl⟩)

/-- The step of a placed turn. -/
theorem step_of_turn {s : State} {t : Turn} {ts : List Turn} (h : s.turns = t :: ts) :
    step s = stepOf t { s with turns := ts } := by
  simp [step, takeTurn_cons h]

/-- A caller's turn runs the operation its oldest event selects. -/
theorem step_caller {s : State} {ts : List Turn} {e : CallerEvent} {es : List CallerEvent}
    (ht : s.turns = .caller :: ts) (he : s.callerOps = e :: es) :
    step s = exec (decode (.caller e)) { s with turns := ts, callerOps := es } := by
  rw [step_of_turn ht]
  change runFetched (some (.caller (nextCaller { s with turns := ts }).1), (nextCaller { s with turns := ts }).2) = _
  rw [nextCaller_cons (s := { s with turns := ts }) he]
  rfl

/-- An engine's turn runs the operation the channel's oldest answer selects. -/
theorem step_engine {s : State} {ts : List Turn} {a : Answer} {as : List Answer}
    (ht : s.turns = .engine :: ts) (ha : s.rxIn = a :: as) (hr : s.canRead = true) :
    step s = exec (decode (.answer a)) { s with turns := ts, rxIn := as } := by
  rw [step_of_turn ht]
  change runFetched (fetch .engine { s with turns := ts }) = _
  rw [fetch_engine (s := { s with turns := ts }) hr, rxTake_cons (s := { s with turns := ts }) ha]
  rfl

/-- An engine's turn passes where the engine has no step (42_receiver R130). -/
theorem step_engine_passes {s : State} {ts : List Turn} (ht : s.turns = .engine :: ts) (hr : s.canRead = false) :
    step s = .next { s with turns := ts } := by
  rw [step_of_turn ht]
  change runFetched (fetch .engine { s with turns := ts }) = _
  rw [fetch_engine_none (s := { s with turns := ts }) hr]
  rfl

/-- The engine's look at the flag ends it where the flag is set. -/
theorem step_ack {s : State} {ts : List Turn} (ht : s.turns = .ack :: ts) (hs : s.canStop = true) :
    step s = exec .rxStopack { s with turns := ts } := by
  rw [step_of_turn ht]
  change runFetched (fetch .ack { s with turns := ts }) = _
  rw [fetch_ack (s := { s with turns := ts }) hs]
  rfl

/-- The engine's look at the flag passes where it is not set or the engine does not run (42_receiver R130). -/
theorem step_ack_passes {s : State} {ts : List Turn} (ht : s.turns = .ack :: ts) (hs : s.canStop = false) :
    step s = .next { s with turns := ts } := by
  rw [step_of_turn ht]
  change runFetched (fetch .ack { s with turns := ts }) = _
  rw [fetch_ack_none (s := { s with turns := ts }) hs]
  rfl

/-- Nothing supplied is a supply. -/
theorem Supplied.refl (s : State) : Supplied s s := ⟨[], [], [], by simp⟩

/-- What the environment supplies leaves the block as it is. -/
theorem Supplied.sameBlock {s t : State} (h : Supplied s t) : SameBlock s t := by
  obtain ⟨ts, as, es, rfl⟩ := h
  exact ⟨rfl, rfl, rfl, rfl, rfl, rfl, rfl, rfl, rfl, rfl, rfl, rfl⟩

/-- What the environment supplies comes behind the caller's oldest event. -/
theorem Supplied.callerOps_head {s t : State} (h : Supplied s t) {x : CallerEvent} (hx : s.callerOps.head? = some x) :
    t.callerOps.head? = some x := by
  obtain ⟨ts, as, es, rfl⟩ := h
  simp [List.head?_append, hx]

/-- A run of no step. -/
@[simp] theorem run_zero (s : State) : runSteps 0 s = .next s := rfl

/-- A run is a step and then the rest of the run. -/
theorem run_succ (n : Nat) (s : State) : runSteps (n + 1) s = andThen (step s) (runSteps n) := rfl

/-- The host's run, one step unfolded. -/
theorem host_run_succ (M : Host.Core) (n : Nat) (s : M.State) :
    M.run (n + 1) s =
      match M.step s with
      | .next t => M.run n t
      | .fault r => .fault r
      | .refused r => .refused r := rfl

/-- A run in the host's words. -/
theorem run_eq_host (n : Nat) : ∀ s : State, Host.Core.run Sys2Proof.core n s = runSteps n s := by
  induction n with
  | zero => intro s; rfl
  | succ n ih =>
    intro s
    refine (host_run_succ Sys2Proof.core n s).trans ?_
    rcases h : Host.Core.step Sys2Proof.core s with t | r | r
    · have hs : step s = .next t := h
      rw [run_succ, hs]
      exact ih t
    · have hs : step s = .fault r := h
      rw [run_succ, hs]
      rfl
    · have hs : step s = .refused r := h
      rw [run_succ, hs]
      rfl

end Sys2Proof.Machine
end

