-- ==== Sys2Proof/Tests/Slice0.lean ====
section
/-!
SUPPORT. The model's own tests, each a single step or a single value, with the expected result from spec/ (the vector is
named); and a witness for the hypotheses of every obligation that has some.
-/

namespace Sys2Proof.Tests

open Sys2Proof.Machine

/-! ### Well-formedness: a term each check refuses, and its neighbour it accepts (R74, R76) -/

theorem test_wf_junk : (Instr.dJunk 0xC0).wellFormed = false ∧ (Instr.dJunk 0xC1).wellFormed = true := by decide
theorem test_wf_lit : (Instr.dLit 0xC0).wellFormed = false ∧ (Instr.dLit 0xDB).wellFormed = false ∧
    (Instr.dLit 0xDC).wellFormed = true := by decide
theorem test_wf_badesc : (Instr.dBadesc 0xDC).wellFormed = false ∧ (Instr.dBadesc 0xDD).wellFormed = false ∧
    (Instr.dBadesc 0xC0).wellFormed = true := by decide
theorem test_wf_elit : (Instr.eLit 0xC0).wellFormed = false ∧ (Instr.eLit 0xDB).wellFormed = false ∧
    (Instr.eLit 0xDC).wellFormed = true := by decide

/-! ### Selection, word by word from the tables of R74, R76, R77 -/

/-- The byte C0 written out bit by bit (opcode_table.json, D.OPEN: bits 7 to 0 are 1100 0000). -/
theorem test_decode_dOpen : decode (.rx .idle 0b11000000) = .dOpen := by decide
theorem test_decode_dJunk : decode (.rx .idle 0b11011011) = .dJunk 0xDB ∧ decode (.rx .idle 0b00000000) = .dJunk 0 := by
  decide
theorem test_decode_dEsc : decode (.rx .body 0b11011011) = .dEsc := by decide
theorem test_decode_dClose : decode (.rx .body 0b11000000) = .dClose := by decide
theorem test_decode_dLit : decode (.rx .body 0b11011100) = .dLit 0xDC ∧ decode (.rx .body 0b11111111) = .dLit 0xFF := by
  decide
theorem test_decode_dXdelim : decode (.rx .escape 0b11011100) = .dXdelim := by decide
theorem test_decode_dXesc : decode (.rx .escape 0b11011101) = .dXesc := by decide
theorem test_decode_dBadesc :
    decode (.rx .escape 0b11000000) = .dBadesc 0xC0 ∧ decode (.rx .escape 0b11011011) = .dBadesc 0xDB := by decide
theorem test_decode_eStart : decode (.caller .frameStart) = .eStart := by decide
theorem test_decode_eXdelim : decode (.caller (.payload 0b11000000)) = .eXdelim := by decide
theorem test_decode_eXesc : decode (.caller (.payload 0b11011011)) = .eXesc := by decide
theorem test_decode_eLit :
    decode (.caller (.payload 0b11011100)) = .eLit 0xDC ∧ decode (.caller (.payload 0b01000001)) = .eLit 0x41 := by decide
theorem test_decode_eEnd : decode (.caller .frameFinish) = .eEnd := by decide
theorem test_decode_rxByte : decode (.answer (.byte 0b11000000)) = .rxByte 0xC0 := by decide
theorem test_decode_rxIdle : decode (.answer .nodata) = .rxIdle := by decide
theorem test_decode_rxIoerr : decode (.answer .ioerr) = .rxIoerr := by decide
theorem test_decode_rxStopack : decode .cancelSeen = .rxStopack := by decide
theorem test_decode_cStart : decode (.caller .start) = .cStart := by decide
theorem test_decode_cStopreq : decode (.caller .stopReq) = .cStopreq := by decide
theorem test_decode_cJoin : decode (.caller .join) = .cJoin := by decide
theorem test_decode_cDrop : decode (.caller .drop) = .cDrop := by decide
theorem test_decode_cFlush : decode (.caller .flush) = .cFlush := by decide
theorem test_decode_qPop : decode (.caller .pop) = .qPop := by decide

/-! ### The table's words, and the step that runs them first after reset -/

theorem test_word_values :
    decodeTableWord 8 0xC0 = some .dOpen ∧ decodeTableWord 8 0xDB = some .dEsc ∧ decodeTableWord 8 0xDC = some .dXdelim ∧
    decodeTableWord 8 0xDD = some .dXesc ∧ decodeTableWord 8 0x41 = some (.dJunk 0x41) := by decide
theorem test_word_not_one_byte : decodeTableWord 16 0xC0 = none ∧ decodeTableWord 0 0 = none := by decide
theorem test_word_step_open :
    (nextState? (step (State.reset.withFetchWord 8 0xC0))).map State.buf = some [0xC0] := by decide
theorem test_word_step_xesc :
    (nextState? (step (State.reset.withFetchWord 8 0xDD))).map State.buf = some [0xC0, 0xDB] := by decide

/-! ### Small states -/

/-- A running engine in mode IDLE (95 T1). -/
def running : State := { State.reset with life := .running, portOwner := .block }
/-- Mode BODY with `BUF = [C0 11]` (95 2.1). -/
def inBody : State := { running with openF := true, buf := [0xC0, 0x11] }
/-- Mode ESCAPE with `BUF = [C0 11]` (95 2.1). -/
def inEscape : State := { inBody with escf := true }
/-- TX_OPEN = 1 (95 E4). -/
def inFrame : State := { State.reset with txOpen := true, txOut := [0xC0] }
/-- The state after 95 T6. -/
def failed : State :=
  { running with life := .terminated, fq := [[0xC0, 0x01, 0xC0]], elog := [.ioError] }
/-- A stopped engine with the flag set (95 T11). -/
def ended : State := { running with life := .stopped, cancel := true, fq := [[0xC0, 0x01, 0xC0]] }
/-- A state whose stores are full: FRAME_MAX 2 and FQ_DEPTH 1. -/
def full (s : State) : State :=
  { s with fq := [[0xC0, 0xC0]],
           cfg := { frameMax := some 2, fqDepth := some 1, reexamineOffender := false, flushClearsDecoder := true } }
/-- The parameters of 93 U7 and U8 both off their default. -/
def unusual (s : State) : State :=
  { s with cfg := { frameMax := none, fqDepth := none, reexamineOffender := true, flushClearsDecoder := false } }

/-! ### The decoder operations (95 table 2.1, rows 1 to 15) -/

/-- Row 1, and U1: ESCF is ignored while OPEN is 0. -/
theorem test_dOpen : exec .dOpen { running with escf := true } = .next { running with openF := true, buf := [0xC0] } := by
  rfl
/-- Row 5. -/
theorem test_dJunk : exec (.dJunk 0xBF) running = .next { running with elog := [.unexpectedByte] } := by rfl
/-- Row 7. -/
theorem test_dEsc : exec .dEsc inBody = .next inEscape := by rfl
/-- Row 6. -/
theorem test_dClose : exec .dClose inBody = .next { running with fq := [[0xC0, 0x11, 0xC0]] } := by rfl
/-- Row 8. -/
theorem test_dLit : exec (.dLit 0xDC) inBody = .next { inBody with buf := [0xC0, 0x11, 0xDC] } := by rfl
/-- Row 13. -/
theorem test_dXdelim : exec .dXdelim inEscape = .next { inBody with buf := [0xC0, 0x11, 0xC0] } := by rfl
/-- Row 14. -/
theorem test_dXesc : exec .dXesc inEscape = .next { inBody with buf := [0xC0, 0x11, 0xDB] } := by rfl
/-- Row 11: the delimiter is consumed by the error. -/
theorem test_dBadesc : exec (.dBadesc 0xC0) inEscape = .next { running with elog := [.invalidEscape] } := by rfl
/-- A byte of one mode has no step in another. -/
theorem test_not_selected : refusal? (exec .dClose running) = some .notSelected := by decide

/-! ### Streams and round trips (95 2.2, 2.4, part 3) -/

/-- V8. -/
theorem test_stream_v8 : feed Regs.start [] [] [0xC0, 0xDB, 0xDB, 0xDD, 0xC0] =
    ((true, false, [0xC0]), [], [.invalidEscape, .unexpectedByte]) := by decide
/-- V12. -/
theorem test_stream_v12 : feed Regs.start [] [] [0xC0, 0x01, 0xDB, 0x41, 0xC0, 0x05, 0xC0] =
    ((false, false, []), [[0xC0, 0x05, 0xC0]], [.invalidEscape]) := by decide
/-- E4 and RT4. -/
theorem test_encode_e4 :
    encodePayload [0xC0, 0xDB, 0xDC, 0xDD] = [0xC0, 0xDB, 0xDC, 0xDB, 0xDD, 0xDC, 0xDD, 0xC0] := by decide
/-- The body of RT6's wire frame, unescaped. -/
theorem test_unescape_rt6 : unescapeBody [0xDB, 0xDD, 0xDC] = [0xDB, 0xDC] ∧ wellFormedBody [0xDB, 0xDD, 0xDC] = true ∧
    wellFormedBody [0x01, 0xDB] = false ∧ wellFormedBody [0xDB, 0xDB, 0xDD] = false := by decide
/-- The body of a frame. -/
theorem test_frameBody : frameBody [0xC0, 0xC0, 0xC0] = [0xC0] ∧ frameOf [0x01] = [0xC0, 0x01, 0xC0] := by decide

/-! ### The encoder operations (95 part 3, E2 to E4, E11) -/

theorem test_eStart : exec .eStart State.reset = .next inFrame := by rfl
theorem test_eXdelim : exec .eXdelim inFrame = .next { inFrame with txOut := [0xC0, 0xDB, 0xDC] } := by rfl
theorem test_eXesc : exec .eXesc inFrame = .next { inFrame with txOut := [0xC0, 0xDB, 0xDD] } := by rfl
theorem test_eLit : exec (.eLit 0xDC) inFrame = .next { inFrame with txOut := [0xC0, 0xDC] } := by rfl
theorem test_eEnd : exec .eEnd inFrame = .next { inFrame with txOut := [0xC0, 0xC0], txOpen := false } := by rfl
theorem test_out_of_sequence : refusal? (exec .eStart inFrame) = some .encoderOutOfSequence ∧
    refusal? (exec (.eLit 0x01) State.reset) = some .encoderOutOfSequence := by decide

/-! ### The engine's steps (95 part 4) -/

/-- T3. -/
theorem test_rxByte_close : exec (.rxByte 0xC0) { inBody with buf := [0xC0, 0x07] } =
    .next { running with fq := [[0xC0, 0x07, 0xC0]] } := by rfl
/-- T5. -/
theorem test_rxByte_junk : exec (.rxByte 0x41) running = .next { running with elog := [.unexpectedByte] } := by rfl
/-- T4. -/
theorem test_rxIdle : exec .rxIdle inBody = .next inBody := by rfl
/-- T6. -/
theorem test_rxIoerr : exec .rxIoerr { inEscape with fq := [[0xC0, 0x01, 0xC0]] } = .next failed := by rfl
/-- T11. -/
theorem test_rxStopack :
    exec .rxStopack { inBody with cancel := true, fq := [[0xC0, 0x01, 0xC0]] } = .next ended := by rfl
/-- R134: not enabled while the flag is clear. -/
theorem test_rxStopack_off : refusal? (exec .rxStopack inBody) = some .engineNotEnabled := by decide

/-! ### The control operations and the queue (95 part 4) -/

/-- T1. -/
theorem test_cStart : exec .cStart State.reset = .next running := by rfl
/-- T21. -/
theorem test_cStart_again : refusal? (exec .cStart running) = some .cannotStart := by decide
/-- T10. -/
theorem test_cStopreq : exec .cStopreq inBody = .next { inBody with cancel := true } := by rfl
/-- T9. -/
theorem test_cJoin : exec .cJoin failed = .next { failed with portOwner := .external } := by rfl
/-- T17: the caller waits. -/
theorem test_cJoin_waits : step { running with turns := [.caller], callerOps := [.join] } =
    .next { running with callerOps := [.join] } := by rfl
/-- T23. -/
theorem test_cDrop : exec .cDrop { ended with portOwner := .external, fq := [], elog := [.invalidEscape] } =
    .next { State.reset with elog := [.invalidEscape] } := by rfl
/-- T19. -/
theorem test_cDrop_running : exec .cDrop inBody =
    .next { inBody with cancel := true, callerOps := [.join, .drop] } := by rfl
/-- T15: no new report; how much of the channel's buffer goes is free. -/
theorem test_cFlush : (nextState? (exec .cFlush { inBody with elog := [.unexpectedByte], fq := [[0xC0, 0xC0]] })).map
    (fun t => (t.openF, t.buf, t.fq, t.elog, t.life)) =
      some (false, [], [], [.unexpectedByte], .running) := by rfl
/-- T20. -/
theorem test_absent : refusal? (exec .qPop State.reset) = some .noEngine ∧
    refusal? (exec .cFlush State.reset) = some .noEngine := by decide
/-- T7, first pop. -/
theorem test_qPop_frame : exec .qPop failed = .next { failed with fq := [], polls := [.frame [0xC0, 0x01, 0xC0]] } := by
  rfl
/-- T7, second pop. -/
theorem test_qPop_closed : exec .qPop { failed with fq := [] } = .next { failed with fq := [], polls := [.closed] } := by
  rfl

/-! ### Witnesses: hypotheses of the obligations, met by concrete states -/

theorem witness_ResetAndStartValues : ∃ t, exec .cStart State.reset = .next t := ⟨_, rfl⟩
theorem witness_StartConstructsEngine :
    (State.reset.life = .absent ∧ State.reset.portOwner = .external) ∧
    ¬(running.life = .absent ∧ running.portOwner = .external) := by decide
theorem witness_DecodeAndEncodeAreInverse : (Instr.dBadesc 0xC0).wellFormed = true := by decide
theorem witness_OpenStoresTheDelimiter : running.openF = false ∧ fits running.cfg.frameMax 1 = true ∧
    fits (some 1) 1 = true := by decide
theorem witness_JunkReportsUnexpectedByte : running.openF = false ∧ (0xDB#8 ≠ 0xC0#8) := by decide
theorem witness_EscapePrefixSetsTheFlag : inBody.openF = true ∧ inBody.escf = false := by decide
theorem witness_ClosePushesTheFrame : inBody.openF = true ∧ inBody.escf = false ∧
    fits inBody.cfg.fqDepth (inBody.fq.length + 1) = true := by decide
theorem witness_LiteralIsAppended : inBody.openF = true ∧ inBody.escf = false ∧ 0xDC#8 ≠ 0xC0#8 ∧ 0xDC#8 ≠ 0xDB#8 ∧
    fits inBody.cfg.frameMax (inBody.buf.length + 1) = true := by decide
theorem witness_EscapePairsAppendTheirValue : inEscape.openF = true ∧ inEscape.escf = true ∧
    fits inEscape.cfg.frameMax (inEscape.buf.length + 1) = true := by decide
theorem witness_BadEscapeAbandonsTheFrame : inEscape.openF = true ∧ inEscape.escf = true ∧ 0xC0#8 ≠ 0xDC#8 ∧
    0xC0#8 ≠ 0xDD#8 ∧ inEscape.cfg.reexamineOffender = false := by decide
theorem witness_UnselectedDecoderOperationHasNoStep : Mode.body ≠ running.mode ∧ Mode.idle ≠ inBody.mode ∧
    Mode.body ≠ inEscape.mode := by decide
theorem witness_ModeTransitionsOfTheDecoder : running.cfg.reexamineOffender = false ∧
    (∃ t, exec .dOpen running = .next t) ∧ (∃ t, exec (.dJunk 0) running = .next t) ∧
    (∃ t, exec .dEsc inBody = .next t) ∧ (∃ t, exec .dClose inBody = .next t) ∧ (∃ t, exec (.dLit 0xDD) inBody = .next t) ∧
    (∃ t, exec .dXdelim inEscape = .next t) ∧ (∃ t, exec .dXesc inEscape = .next t) ∧
    (∃ t, exec (.dBadesc 0xDB) inEscape = .next t) :=
  ⟨rfl, ⟨_, rfl⟩, ⟨_, rfl⟩, ⟨_, rfl⟩, ⟨_, rfl⟩, ⟨_, rfl⟩, ⟨_, rfl⟩, ⟨_, rfl⟩, ⟨_, rfl⟩⟩
/-- One clause each: a full BUF in BODY, in ESCAPE, no room for one byte, a full FQ; the engine can read. -/
theorem witness_ExceededLimitsAreRefused :
    ((full inBody).openF = true ∧ (full inBody).escf = false ∧
      fits (full inBody).cfg.frameMax ((full inBody).buf.length + 1) = false ∧ 0xDC#8 ≠ 0xC0#8 ∧ 0xDC#8 ≠ 0xDB#8 ∧
      (full inBody).canRead = true) ∧
    ((full inEscape).openF = true ∧ (full inEscape).escf = true ∧
      fits (full inEscape).cfg.frameMax ((full inEscape).buf.length + 1) = false ∧ (full inEscape).canRead = true) ∧
    (running.openF = false ∧ fits (some 0) 1 = false ∧ running.canRead = true) ∧
    (fits (full inBody).cfg.fqDepth ((full inBody).fq.length + 1) = false) := by decide
/-- Two states that agree on the decoder's state and differ elsewhere, with a step and without one. -/
theorem witness_DecoderOperationsDependOnTheDecoderOnly :
    (inBody.openF = { inBody with life := .absent, cancel := true }.openF ∧
      inBody ≠ { inBody with life := .absent, cancel := true }) ∧
    (∃ t, exec (decodeRx .body 0x01) inBody = .next t) ∧
    exec (decodeRx .idle 0x01) inBody = .refused .notSelected :=
  ⟨⟨rfl, by decide⟩, ⟨_, rfl⟩, rfl⟩
theorem witness_EncoderOperationsEmit : State.reset.txOpen = false ∧ inFrame.txOpen = true ∧ 0xDC#8 ≠ 0xC0#8 ∧
    0xDC#8 ≠ 0xDB#8 := by decide
theorem witness_MisSequencedEncoderIsRefused : inFrame.txOpen = true ∧ State.reset.txOpen = false ∧ 0xFF#8 ≠ 0xC0#8 ∧
    0xFF#8 ≠ 0xDB#8 := by decide
theorem witness_EveryPayloadByteIsEncoded : inFrame.txOpen = true := by decide
theorem witness_EncoderTouchesOnlyItsOwnState :
    (∃ t, exec (decode (.caller .frameStart)) State.reset = .next t) ∧
    (∃ t, exec (decode (.caller (.payload 0xDB))) inFrame = .next t) ∧
    (∃ t, exec (decode (.caller .frameFinish)) inFrame = .next t) ∧
    State.reset.txOpen = running.txOpen :=
  ⟨⟨_, rfl⟩, ⟨_, rfl⟩, ⟨_, rfl⟩, rfl⟩
/-- The three outcomes of `decode_step`, the premises, a byte placed for the step, and the other disjunct of the last. -/
theorem witness_ByteIsTakenAndDecoded :
    (inBody.life = .running ∧ inBody.portOwner = .block ∧ fits inBody.cfg.frameMax (inBody.buf.length + 1) = true ∧
      fits inBody.cfg.fqDepth (inBody.fq.length + 1) = true ∧ inBody.cfg.reexamineOffender = false) ∧
    ((unusual inEscape).cfg.reexamineOffender = true ∧ 0x00#8 ≠ 0xC0#8) ∧
    (decodeStep 0xC0 true false [0xC0] = .ok false false [] (some [0xC0, 0xC0]) ∧
      decodeStep 0x07 true false [0xC0] = .ok true false [0xC0, 0x07] none ∧
      decodeStep 0x00 true true [0xC0] = .err .invalidEscape) ∧
    ({ inBody with turns := [.engine], rxIn := [.byte 0x07] }.turns = .engine :: []) := by decide
theorem witness_StepFunctionAndDecodeTableAgree : inEscape.canRead = true ∧ withinLimits inEscape ∧
    (full inBody).canRead = true ∧ withinLimits (full inBody) := by decide
theorem witness_EngineStepsWithoutAByte : running.life = .running ∧ running.portOwner = .block ∧
    { running with cancel := true }.life = .running ∧ { running with cancel := true }.cancel = true := by decide
theorem witness_StopRequestSetsCancel : ended.life ≠ .absent ∧ State.reset.life = .absent := by decide
theorem witness_JoinTakesThePortOrWaits : ended.life = .stopped ∧ failed.life = .terminated ∧ running.life = .running ∧
    State.reset.life = .absent := by decide
theorem witness_DropDestroysTheEngine : ended.life = .stopped ∧ failed.life = .terminated ∧ inBody.life = .running ∧
    State.reset.life = .absent := by decide
theorem witness_FlushEmptiesThePipeline : inBody.life ≠ .absent ∧ inBody.cfg.flushClearsDecoder = true ∧
    State.reset.life = .absent := by decide
theorem witness_ParametersOffTheirDefault : (unusual inEscape).openF = true ∧ (unusual inEscape).escf = true ∧
    (unusual inEscape).cfg.reexamineOffender = true ∧ fits (unusual inEscape).cfg.frameMax 1 = true ∧
    (0xDB#8 ≠ 0xC0#8 ∧ 0xDB#8 ≠ 0xDC#8 ∧ 0xDB#8 ≠ 0xDD#8) ∧
    (unusual inBody).life ≠ .absent ∧ (unusual inBody).cfg.flushClearsDecoder = false := by decide
theorem witness_PopAnswersFrameEmptyOrClosed : (failed.life ≠ .absent ∧ failed.fq = [0xC0, 0x01, 0xC0] :: []) ∧
    (running.life = .running ∧ running.fq = []) ∧
    ({ ended with fq := [] }.life = .stopped ∧ { ended with fq := [] }.fq = []) ∧ State.reset.life = .absent := by decide
theorem witness_StatusViewShowsTheState : exec .cStart State.reset = .next running := by rfl
theorem witness_EnablednessByLife : ¬(ended.life = .running ∧ ended.portOwner = .block) ∧
    ¬({ running with portOwner := .external }.portOwner = .block) ∧ ¬(running.life = .running ∧ running.cancel = true) ∧
    (running.life = .running ∧ running.portOwner = .block ∧ defaultCfg running) ∧
    (State.reset.life = .absent ∧ State.reset.portOwner = .external) := by decide
theorem witness_LifeTransitions :
    (∃ t, exec .cStart State.reset = .next t ∧ t.life ≠ State.reset.life) ∧
    (∃ t, exec .rxStopack { inBody with cancel := true } = .next t ∧ t.life ≠ inBody.life) ∧
    (∃ t, exec .rxIoerr inBody = .next t ∧ t.life ≠ inBody.life) ∧
    (∃ t, exec .cDrop ended = .next t ∧ t.life ≠ ended.life) ∧
    (∃ t, exec .cDrop failed = .next t ∧ t.life ≠ failed.life) :=
  ⟨⟨_, rfl, by decide⟩, ⟨_, rfl, by decide⟩, ⟨_, rfl, by decide⟩, ⟨_, rfl, by decide⟩, ⟨_, rfl, by decide⟩⟩
theorem witness_PortHandover :
    (∃ t, exec .cStart State.reset = .next t ∧ t.portOwner ≠ State.reset.portOwner) ∧
    (∃ t, exec .cJoin ended = .next t ∧ t.portOwner ≠ ended.portOwner) ∧
    (∃ t, exec .cDrop failed = .next t ∧ t.portOwner ≠ failed.portOwner) :=
  ⟨⟨_, rfl, by decide⟩, ⟨_, rfl, by decide⟩, ⟨_, rfl, by decide⟩⟩
theorem witness_CancelIsSetAndClearedByTheCaller :
    (∃ t, exec .cStopreq inBody = .next t ∧ t.cancel ≠ inBody.cancel) ∧
    (∃ t, exec .cDrop inBody = .next t ∧ t.cancel ≠ inBody.cancel) ∧
    (∃ t, exec .cDrop ended = .next t ∧ t.cancel ≠ ended.cancel) ∧
    (∃ t, exec .cStart { State.reset with cancel := true } = .next t ∧ t.cancel ≠ true) :=
  ⟨⟨_, rfl, by decide⟩, ⟨_, rfl, by decide⟩, ⟨_, rfl, by decide⟩, ⟨_, rfl, by decide⟩⟩
theorem witness_SecondReaderIsRefused :
    ({ running with turns := [.outsider 2] }.turns = .outsider 2 :: [] ∧ running.portOwner = .block) ∧
    ({ State.reset with turns := [.outsider 2] }.turns = .outsider 2 :: [] ∧ State.reset.portOwner = .external) := by
  decide
/-- One clause each: a read, a look at the flag, a caller's operation, and the two turns that pass. -/
theorem witness_StepRunsTheDecodedInstruction :
    ({ running with turns := [.engine], rxIn := [.nodata] }.rxIn = .nodata :: [] ∧ running.life = .running ∧
      running.portOwner = .block) ∧
    ({ running with turns := [.ack], cancel := true }.turns = .ack :: [] ∧ { running with cancel := true }.cancel = true) ∧
    ({ State.reset with turns := [.caller], callerOps := [.start] }.callerOps = .start :: []) ∧
    ¬(ended.life = .running ∧ ended.portOwner = .block) ∧ ¬(running.life = .running ∧ running.cancel = true) := by decide
theorem witness_PlacedWordIsRunNext : withinLimits (State.reset.withFetchWord 8 0xDC) ∧
    decodeTableWord 8 0xDC = some .dXdelim := by decide
/-- A state of mode BODY with a queued frame meets the invariant, and its step is a next state. -/
theorem witness_EveryStepKeepsTheInvariant :
    Inv { inBody with turns := [.engine], rxIn := [.byte 0xC0], fq := [[0xC0, 0xC0]] } ∧
    ∃ t, step { inBody with turns := [.engine], rxIn := [.byte 0xC0], fq := [[0xC0, 0xC0]] } = .next t :=
  ⟨by decide, _, rfl⟩
theorem witness_EveryOperationKeepsTheDecoderInvariant : decoderInv inEscape ∧ framesInv ended ∧ framesInv inEscape ∧
    ∃ t, exec .dXesc inEscape = .next t := ⟨by decide, by decide, by decide, _, rfl⟩
theorem witness_EveryStepKeepsTheOutputWellFormed :
    encoderInv { inFrame with turns := [.caller], callerOps := [.payload 0xC0] } ∧
    ∃ t, step { inFrame with turns := [.caller], callerOps := [.payload 0xC0] } = .next t :=
  ⟨⟨[], [], rfl⟩, _, rfl⟩
/-- The three cases of the log: kept, one report more, begun anew. -/
theorem witness_OutputsAreAppendOnly :
    (∃ t, step { running with turns := [.engine], rxIn := [.nodata] } = .next t ∧ t.elog = []) ∧
    (∃ t, step { running with turns := [.engine], rxIn := [.byte 1] } = .next t ∧ t.elog = [.unexpectedByte]) ∧
    (∃ t, step { State.reset with turns := [.caller], callerOps := [.start], elog := [.ioError] } = .next t ∧
      t.elog = []) :=
  ⟨⟨_, rfl, by decide⟩, ⟨_, rfl, by decide⟩, ⟨_, rfl, by decide⟩⟩
/-- The three cases of the queue: a frame pushed, a frame handed over, a poll of an empty queue. -/
theorem witness_QueueIsFirstInFirstOut :
    (∃ t, step { inBody with turns := [.engine], rxIn := [.byte 0xC0] } = .next t ∧ t.fq = [[0xC0, 0x11, 0xC0]]) ∧
    (∃ t, step { failed with turns := [.caller], callerOps := [.pop] } = .next t ∧ t.fq = []) ∧
    (∃ t, step { running with turns := [.caller], callerOps := [.pop] } = .next t ∧ t.polls = [.empty]) :=
  ⟨⟨_, rfl, by decide⟩, ⟨_, rfl, by decide⟩, ⟨_, rfl, by decide⟩⟩
theorem witness_EngineRunIsFeed :
    let s : State := { running with rxIn := [.byte 0xC0, .byte 0xDB], turns := [.engine, .engine] }
    s.life = .running ∧ s.portOwner = .block ∧ defaultCfg s ∧ s.rxIn = [0xC0#8, 0xDB#8].map .byte ++ [] ∧
      s.turns = List.replicate 2 .engine ++ [] := by decide
theorem witness_EncodeSequenceEmitsTheEncoding :
    let s : State := { State.reset with callerOps := encodeEvents [0xDB], turns := [.caller, .caller, .caller] }
    s.txOpen = false ∧ s.callerOps = encodeEvents [0xDB] ++ [] ∧ s.turns = List.replicate (1 + 2) .caller ++ [] := by
  decide
/-- A fair execution of 95 T10 to T12: the engine acknowledges, the caller joins, and from then on turns pass. -/
def stopping : Nat → State
  | 0 => { inBody with cancel := true, callerOps := [.join], turns := [.ack, .caller] }
  | 1 => { running with life := .stopped, cancel := true, callerOps := [.join], turns := [.caller] }
  | _ + 2 => { running with life := .stopped, cancel := true, portOwner := .external, turns := [.engine] }
theorem witness_execution : IsExecution stopping
  | 0 => ⟨stopping 1, rfl, [], [], [], rfl⟩
  | 1 => ⟨{ stopping 2 with turns := [] }, rfl, [.engine], [], [], rfl⟩
  | _ + 2 => ⟨{ stopping 2 with turns := [] }, rfl, [.engine], [], [], rfl⟩
theorem witness_fair : Fair stopping := by
  refine ⟨fun n hr _ => ?_, fun n b _ hc _ => ?_, fun n hr hj => ?_⟩
  · match n with
    | 0 => exact ⟨1, by decide⟩
    | 1 | _ + 2 => cases hr
  · match n with
    | 0 | 1 | _ + 2 => cases hc
  · match n with
    | 0 => exact absurd rfl hr
    | 1 => exact ⟨1, by decide⟩
    | _ + 2 => cases hj
/-- The fair execution above meets the second clause's other premises at its first step. -/
theorem witness_JoinCompletesInAFairExecution :
    IsExecution stopping ∧ Fair stopping ∧ (stopping 0).life ≠ .absent ∧
      ((stopping 0).life = .running → (stopping 0).cancel = true) ∧ (stopping 0).callerOps.head? = some .join :=
  ⟨witness_execution, witness_fair, by decide⟩
theorem witness_JoinWaitsForTheEngineAndCompletes :
    let s : State := { inBody with cancel := true, callerOps := [.join], turns := [.caller, .ack, .caller] }
    s.life = .running ∧ s.cancel = true ∧ s.callerOps = .join :: [] ∧
      s.turns = List.replicate 1 .caller ++ (.ack :: .caller :: []) := by decide
theorem witness_DropOfARunningEngineStopsItFirst :
    let s : State := { inBody with callerOps := [.drop], turns := [.caller, .ack, .caller, .caller] }
    s.life = .running ∧ s.callerOps = .drop :: [] ∧
      s.turns = .caller :: (List.replicate 0 .caller ++ (.ack :: .caller :: .caller :: [])) := by decide
theorem witness_ReplaceGivesAFreshEngine :
    let s : State := { inEscape with callerOps := replaceEvents,
                                     turns := [.caller, .ack, .caller, .caller, .caller] }
    s.life = .running ∧ s.callerOps = replaceEvents ++ [] ∧
      s.turns = .caller :: (List.replicate 0 .caller ++ (.ack :: .caller :: .caller :: .caller :: [])) := by decide
theorem witness_EndedEngineTakesNoStep :
    let s : State := { ended with turns := [.engine, .ack] }
    s.life ≠ .running ∧ (∀ u ∈ [Turn.engine, Turn.ack], u = .engine ∨ u = .ack) ∧ s.turns = [.engine, .ack] ++ [] := by
  decide
/-- 95 P1's noise and payloads. -/
theorem witness_FramesAmongNoise : 0xC0#8 ∉ [0x62#8, 0xDB#8] ∧
    (∀ x ∈ [([0x01#8, 0x02#8], [0x4F#8, 0x4B#8]), ([0xC0#8], [])], 0xC0#8 ∉ x.2) := by decide
theorem witness_WellFormedWireFramesDecode : wellFormedBody [0xDB, 0xDC, 0xDD] = true := by decide
theorem witness_EncodingIsDelimiterFree : wellFormedBody [0xDB, 0xDD, 0xDC] = true ∧
    encodePayload [0xDB, 0xDC] = 0xC0#8 :: ([0xDB#8, 0xDD#8, 0xDC#8] ++ [0xC0#8]) := by decide
theorem witness_EncodingIsInjective : encodePayload [0xC0] = encodePayload [0xC0] := by decide
theorem witness_NoSharedDelimiter : 0xC0#8 ∉ [0x02#8, 0xDB#8] := by decide
theorem witness_ResynchronisesOnTheNextDelimiter : 0xC0#8 ≠ 0xDC#8 ∧ 0xC0#8 ≠ 0xDD#8 ∧ 0xC0#8 ∉ [0x41#8] := by decide

end Sys2Proof.Tests
end

/-!
PROOFS. What an operation can do, said once as the relation `Effect`; what each effect keeps; and from these the
obligations on the state and its invariant (10_state).
-/

namespace Sys2Proof

/-- The eight decoder operations (40_decoder R91 to R98), the only ones that do not ask for a running engine before they
write the decoder registers (log 13). -/
def Instr.isDecoderOp : Instr → Bool
  | .dOpen | .dJunk _ | .dEsc | .dClose | .dLit _ | .dXdelim | .dXesc | .dBadesc _ => true
  | _ => false

end Sys2Proof

namespace Sys2Proof.Machine

/-! ### The mode and the enabling conditions -/

/-- A frame is open in every mode but IDLE (10_state R25). -/
theorem openF_of_mode {s : State} {m : Mode} (h : s.mode = m) (hm : m ≠ .idle) : s.openF = true := by
  cases ho : s.openF with
  | true => rfl
  | false => exact absurd (by simpa [State.mode, ho] using h.symm) hm

theorem canRead_iff {s : State} : s.canRead = true ↔ s.life = .running ∧ s.portOwner = .block := by
  simp [State.canRead]

theorem canStop_iff {s : State} : s.canStop = true ↔ s.life = .running ∧ s.cancel = true := by
  simp [State.canStop]

theorem ended_iff {s : State} : s.ended = true ↔ s.life = .stopped ∨ s.life = .terminated := by
  simp [State.ended]

@[simp] theorem fits_zero (limit : Option Nat) : fits limit 0 = true := by
  cases limit with
  | none => rfl
  | some m => simp

/-! ### The decoder registers -/

/-- I1 and I2 of 10_state R26, of the registers alone. -/
def RegsInv (o x : Bool) (u : List Byte) : Prop :=
  (o = false → x = false ∧ u = []) ∧ (o = true → 1 ≤ u.length ∧ u.head? = some DELIM)

theorem decoderInv_iff {s : State} : decoderInv s ↔ RegsInv s.openF s.escf s.buf := Iff.rfl

theorem RegsInv.cleared : RegsInv false false [] := ⟨fun _ => ⟨rfl, rfl⟩, nofun⟩

theorem RegsInv.opened : RegsInv true false [DELIM] := ⟨nofun, fun _ => ⟨le_rfl, rfl⟩⟩

theorem RegsInv.setEscf {o x : Bool} {u : List Byte} (h : RegsInv o x u) (ho : o = true) (x' : Bool) :
    RegsInv o x' u :=
  ⟨fun hc => absurd (ho.symm.trans hc) nofun, h.2⟩

theorem RegsInv.append {o x : Bool} {u : List Byte} (h : RegsInv o x u) (ho : o = true) (x' : Bool) (b : Byte) :
    RegsInv o x' (u ++ [b]) := by
  obtain ⟨-, hu⟩ := h.2 ho
  exact ⟨fun hc => absurd (ho.symm.trans hc) nofun, fun _ => ⟨by simp, by simp [List.head?_append, hu]⟩⟩

/-- The delimiter completes the buffer of an open frame to a frame (10_state R28, 40_decoder R94). -/
theorem RegsInv.isFrame_close {o x : Bool} {u : List Byte} (h : RegsInv o x u) (ho : o = true) :
    isFrame (u ++ [DELIM]) := by
  obtain ⟨hl, hu⟩ := h.2 ho
  exact ⟨by simpa using hl, by simp [List.head?_append, hu], by simp⟩

/-- What a result of `decode_step` from given registers must satisfy: it keeps I1 and I2, a frame it completes is a frame,
and its errors are framing errors. -/
def DecodeResult.Sound (o x : Bool) (u : List Byte) : DecodeResult → Prop
  | .ok o' x' u' none => RegsInv o x u → RegsInv o' x' u'
  | .ok o' x' u' (some f) => RegsInv o x u → RegsInv o' x' u' ∧ isFrame f
  | .err k => k ≠ .ioError

theorem decodeStep_sound (b : Byte) (o x : Bool) (u : List Byte) : (decodeStep b o x u).Sound o x u := by
  unfold decodeStep
  split
  · split
    · exact fun _ => .opened
    · exact nofun
  · rename_i ho
    have ho : o = true := by simpa using ho
    subst ho
    split
    · split
      · exact fun h => h.append rfl _ _
      · split
        · exact fun h => h.append rfl _ _
        · exact nofun
    · split
      · exact fun h => h.setEscf rfl _
      · split
        · exact fun h => ⟨.cleared, h.isFrame_close rfl⟩
        · exact fun h => h.append rfl _ _

/-! ### What an operation can do -/

/-- The change an operation makes, with what its condition says of it. Operations that write the same elements share a
case; those that write LIFE, CANCEL, PORT_OWNER or the results of the polls have one each. -/
inductive Effect (s : State) : Instr → State → Prop
  /-- nothing of the block changes: RX.IDLE, and a C.JOIN that waits (log 4) -/
  | kept {i : Instr} {t : State} (hb : SameBlock s t) : Effect s i t
  /-- only the decoder registers are written -/
  | decoder {i : Instr} {o x : Bool} {u : List Byte} (hrun : i.isDecoderOp = true ∨ s.life = .running)
      (hr : RegsInv s.openF s.escf s.buf → RegsInv o x u)
      (hf : fits s.cfg.frameMax s.buf.length = true → fits s.cfg.frameMax u.length = true) :
      Effect s i (s.setDecoder o x u)
  /-- a frame is completed -/
  | push {i : Instr} {o x : Bool} {u : List Byte} {f : Frame} (hrun : i.isDecoderOp = true ∨ s.life = .running)
      (hr : RegsInv s.openF s.escf s.buf → RegsInv o x u ∧ isFrame f) (hf : fits s.cfg.frameMax u.length = true)
      (hq : fits s.cfg.fqDepth (s.fq.length + 1) = true) :
      Effect s i ((s.setDecoder o x u).enqueue f)
  /-- a framing error is taken -/
  | framingError {i : Instr} {o x : Bool} {u : List Byte} {k : Report}
      (hrun : i.isDecoderOp = true ∨ s.life = .running) (hk : k ≠ .ioError) (hr : RegsInv o x u)
      (hf : fits s.cfg.frameMax u.length = true) :
      Effect s i ((s.report k).setDecoder o x u)
  /-- an encoder operation emits -/
  | emit {i : Instr} {v : Bool} {w : List Byte} : Effect s i { s with txOpen := v, txOut := s.txOut ++ w }
  | ioError (hl : s.canRead = true) : Effect s .rxIoerr (ioErrorEntry s)
  | stopAck (hl : s.canStop = true) : Effect s .rxStopack { s.clearDecoder with life := .stopped }
  | start (hl : s.life = .absent) :
      Effect s .cStart
        { s.clearDecoder with fq := [], elog := [], cancel := false, portOwner := .block, life := .running }
  | stopReq (hl : s.life ≠ .absent) : Effect s .cStopreq { s with cancel := true }
  | join (hl : s.life = .stopped ∨ s.life = .terminated) : Effect s .cJoin { s with portOwner := .external }
  | dropRunning (hl : s.life = .running) :
      Effect s .cDrop (({ s with cancel := true } : State).callerContinues [.join, .drop])
  | drop (hl : s.life = .stopped ∨ s.life = .terminated) :
      Effect s .cDrop
        { s.clearDecoder with fq := [], cancel := false, portOwner := .external, life := .absent }
  | flush {u : State} (hl : s.life ≠ .absent) (hu : u = s.clearDecoder ∨ u = s) :
      Effect s .cFlush (channelClear { u with fq := [] })
  | popFrame {f : Frame} {q : List Frame} (hl : s.life ≠ .absent) (hq : s.fq = f :: q) :
      Effect s .qPop (({ s with fq := q } : State).handOver (.frame f))
  | popNothing {r : PollResult} (hl : s.life ≠ .absent) (hq : s.fq = []) (hr : r = .empty ∨ r = .closed) :
      Effect s .qPop (s.handOver r)

/-- A framing error that is taken is a framing-error effect, the offender re-examined or not. -/
theorem framingError_effect {i : Instr} {k : Report} {b : Byte} {s t : State}
    (hrun : i.isDecoderOp = true ∨ s.life = .running) (hk : k ≠ .ioError) (h : framingError k b s = .next t) :
    Effect s i t := by
  obtain rfl | ⟨-, -, hf, rfl⟩ := framingError_eq_next h
  · exact .framingError hrun hk .cleared (fits_zero _)
  · exact .framingError hrun hk .opened hf

theorem execRxByte_effect {b : Byte} {s t : State} (h : execRxByte b s = .next t) : Effect s (.rxByte b) t := by
  have hs := decodeStep_sound b s.openF s.escf s.buf
  obtain ⟨hc, h⟩ := execRxByte_next h
  have hrun := (canRead_iff.mp hc).1
  obtain ⟨o, x, u, hd, hf, rfl⟩ | ⟨o, x, u, f, hd, hf, hq, rfl⟩ | ⟨k, hd, hk⟩ := h <;> rw [hd] at hs
  · exact .decoder (.inr hrun) hs (fun _ => hf)
  · exact .push (.inr hrun) hs hf hq
  · exact framingError_effect (.inr hrun) hs hk

theorem execCFlush_effect {s t : State} (h : execCFlush s = .next t) : Effect s .cFlush t := by
  obtain ⟨hl, ⟨-, rfl⟩ | ⟨-, rfl⟩⟩ := execCFlush_next h
  · exact .flush hl (.inl rfl)
  · exact .flush hl (.inr rfl)

theorem execQPop_effect {s t : State} (h : execQPop s = .next t) : Effect s .qPop t := by
  obtain ⟨hl, ⟨f, q, hq, rfl⟩ | ⟨hq, -, rfl⟩ | ⟨hq, -, rfl⟩⟩ := execQPop_next h
  · exact .popFrame hl hq
  · exact .popNothing hl hq (.inl rfl)
  · exact .popNothing hl hq (.inr rfl)

/-- The emission of the two bytes of an escape pair. -/
theorem emitPair_effect {i : Instr} {a b : Byte} {s : State} : Effect s i ((s.txEmit a).txEmit b) := by
  have h : (s.txEmit a).txEmit b = { s with txOpen := s.txOpen, txOut := s.txOut ++ [a, b] } := by simp [State.txEmit]
  exact h ▸ .emit

/-- What an operation that answers a next state has done: one of the effects. -/
theorem exec_effect {i : Instr} {s t : State} (h : exec i s = .next t) : Effect s i t := by
  cases i with
  | dOpen =>
    obtain ⟨-, hf, rfl⟩ := execDOpen_next h
    exact .decoder (.inl rfl) (fun _ => .opened) (fun _ => hf)
  | dJunk b =>
    obtain ⟨-, -, rfl⟩ := execDJunk_next h
    exact .framingError (.inl rfl) nofun .cleared (fits_zero _)
  | dEsc =>
    obtain ⟨hm, rfl⟩ := execDEsc_next h
    exact .decoder (.inl rfl) (fun hs => hs.setEscf (openF_of_mode hm nofun) _) id
  | dClose =>
    obtain ⟨hm, hq, rfl⟩ := execDClose_next h
    exact .push (.inl rfl) (fun hs => ⟨.cleared, hs.isFrame_close (openF_of_mode hm nofun)⟩) (fits_zero _) hq
  | dLit b =>
    obtain ⟨hm, -, -, hf, rfl⟩ := execDLit_next h
    exact .decoder (.inl rfl) (fun hs => hs.append (openF_of_mode hm nofun) _ _) (fun _ => by simpa using hf)
  | dXdelim =>
    obtain ⟨hm, hf, rfl⟩ := execDXdelim_next h
    exact .decoder (.inl rfl) (fun hs => hs.append (openF_of_mode hm nofun) _ _) (fun _ => by simpa using hf)
  | dXesc =>
    obtain ⟨hm, hf, rfl⟩ := execDXesc_next h
    exact .decoder (.inl rfl) (fun hs => hs.append (openF_of_mode hm nofun) _ _) (fun _ => by simpa using hf)
  | dBadesc b =>
    obtain ⟨-, -, -, rfl | ⟨-, -, hf, rfl⟩⟩ := execDBadesc_next h
    · exact .framingError (.inl rfl) nofun .cleared (fits_zero _)
    · exact .framingError (.inl rfl) nofun .opened hf
  | eStart => obtain ⟨-, rfl⟩ := execEStart_next h; exact .emit
  | eXdelim => obtain ⟨-, rfl⟩ := execEXdelim_next h; exact emitPair_effect
  | eXesc => obtain ⟨-, rfl⟩ := execEXesc_next h; exact emitPair_effect
  | eLit b => obtain ⟨-, -, -, rfl⟩ := execELit_next h; exact .emit
  | eEnd => obtain ⟨-, rfl⟩ := execEEnd_next h; exact .emit
  | rxByte b => exact execRxByte_effect h
  | rxIdle => obtain ⟨-, rfl⟩ := execRxIdle_next h; exact .kept (.refl _)
  | rxIoerr => obtain ⟨hl, rfl⟩ := execRxIoerr_next h; exact .ioError hl
  | rxStopack => obtain ⟨hl, rfl⟩ := execRxStopack_next h; exact .stopAck hl
  | cStart => obtain ⟨hl, -, rfl⟩ := execCStart_next h; exact .start hl
  | cStopreq => obtain ⟨hl, rfl⟩ := execCStopreq_next h; exact .stopReq hl
  | cJoin =>
    obtain ⟨-, rfl⟩ | ⟨hl, rfl⟩ := execCJoin_next h
    · exact .kept (by constructor <;> rfl)
    · exact .join hl
  | cDrop =>
    obtain ⟨hl, rfl⟩ | ⟨hl, rfl⟩ := execCDrop_next h
    · exact .dropRunning hl
    · exact .drop hl
  | cFlush => exact execCFlush_effect h
  | qPop => exact execQPop_effect h

/-- A port event selects no decoder operation (40_decoder R90). -/
theorem PortInput.not_isDecoderOp {x : Input} (h : PortInput x) : (decode x).isDecoderOp = false := by
  cases h with
  | answer a => cases a <;> rfl
  | cancelSeen => rfl
  | caller e =>
    cases e with
    | payload b => simp only [decode, decodeCaller, decodeTx_eq]; split <;> [skip; split] <;> rfl
    | frameStart | frameFinish | start | stopReq | join | drop | flush | pop => rfl

/-- What a step has done to the block: the effect of an operation that is not one of the decoder. A turn that passes does
what RX.IDLE does. -/
theorem step_effect {s s' : State} (h : step s = .next s') :
    ∃ t i, SameBlock s t ∧ i.isDecoderOp = false ∧ Effect t i s' := by
  obtain ⟨x, t, hx, hb, he⟩ | hb := step_cases h
  · exact ⟨t, decode x, hb, hx.not_isDecoderOp, exec_effect he⟩
  · exact ⟨s, .rxIdle, .refl s, rfl, .kept hb⟩

/-! ### What each effect keeps of the invariant -/

/-- I1 and I2 are kept by every operation (10_state R26). -/
theorem Effect.keeps_decoderInv {s t : State} {i : Instr} (h : Effect s i t) (hs : decoderInv s) : decoderInv t := by
  cases h with
  | kept hb => rw [decoderInv_iff, hb.openF, hb.escf, hb.buf]; exact hs
  | decoder _ hr _ => exact hr hs
  | push _ hr _ _ => exact (hr hs).1
  | framingError _ _ hr _ => exact hr
  | ioError | stopAck | start | drop => exact RegsInv.cleared
  | flush _ hu =>
    obtain rfl | rfl := hu
    · exact RegsInv.cleared
    · exact hs
  | emit | stopReq | join | dropRunning | popFrame | popNothing => exact hs

/-- The frames queued and handed over stay frames (10_state R28). -/
theorem Effect.keeps_framesInv {s t : State} {i : Instr} (h : Effect s i t) (hd : decoderInv s)
    (hs : framesInv s) : framesInv t := by
  obtain ⟨hq, hp⟩ := hs
  cases h with
  | kept hb => rw [framesInv, hb.fq, hb.polls]; exact ⟨hq, hp⟩
  | push _ hr _ _ => exact ⟨List.forall_mem_append.mpr ⟨hq, List.forall_mem_singleton.mpr (hr hd).2⟩, hp⟩
  | popFrame _ hf =>
    rw [hf, List.forall_mem_cons] at hq
    exact ⟨hq.2, List.forall_mem_append.mpr ⟨hp, List.forall_mem_singleton.mpr (decide_eq_true hq.1)⟩⟩
  | popNothing _ _ hr =>
    refine ⟨hq, List.forall_mem_append.mpr ⟨hp, List.forall_mem_singleton.mpr ?_⟩⟩
    obtain rfl | rfl := hr <;> rfl
  | flush _ hu => obtain rfl | rfl := hu <;> exact ⟨nofun, hp⟩
  | start | drop => exact ⟨nofun, hp⟩
  | decoder | framingError | emit | ioError | stopAck | stopReq | join | dropRunning => exact ⟨hq, hp⟩

/-- The stores stay within their limits (42_receiver R150). -/
theorem Effect.keeps_withinLimits {s t : State} {i : Instr} (h : Effect s i t) (hs : withinLimits s) :
    withinLimits t := by
  obtain ⟨hb, hq⟩ := hs
  cases h with
  | kept h => rw [withinLimits, h.cfg, h.buf, h.fq]; exact ⟨hb, hq⟩
  | decoder _ _ hf => exact ⟨hf hb, hq⟩
  | push _ _ hf hq' => exact ⟨hf, by simpa using hq'⟩
  | framingError _ _ _ hf => exact ⟨hf, hq⟩
  | ioError | stopAck => exact ⟨fits_zero _, hq⟩
  | start | drop => exact ⟨fits_zero _, fits_zero _⟩
  | flush _ hu =>
    obtain rfl | rfl := hu
    · exact ⟨fits_zero _, fits_zero _⟩
    · exact ⟨hb, fits_zero _⟩
  | popFrame _ hf => exact ⟨hb, fits_mono (by simp [hf]) hq⟩
  | emit | stopReq | join | dropRunning | popNothing => exact ⟨hb, hq⟩

theorem lifeInv_of_running {s : State} (hl : s.life = .running)
    (h : s.portOwner = .block ∧ s.elog.count .ioError = 0) : lifeInv s := by
  simpa [lifeInv, hl] using h

theorem lifeInv_of_stopped {s : State} (hl : s.life = .stopped)
    (h : s.openF = false ∧ s.cancel = true ∧ s.elog.count .ioError = 0) : lifeInv s := by
  simpa [lifeInv, hl] using h

theorem lifeInv_of_terminated {s : State} (hl : s.life = .terminated)
    (h : s.openF = false ∧ s.elog.count .ioError = 1) : lifeInv s := by
  simpa [lifeInv, hl] using h

theorem lifeInv_of_absent {s : State} (hl : s.life = .absent)
    (h : s.openF = false ∧ s.portOwner = .external ∧ s.cancel = false ∧ s.fq = [] ∧ s.elog.count .ioError ≤ 1) :
    lifeInv s := by
  simpa [lifeInv, hl] using h

/-- An engine that has ended has reported at most one I/O error (42_receiver R133 a). -/
theorem ioError_count_le_one {s : State} (hs : lifeInv s) (hl : s.life = .stopped ∨ s.life = .terminated) :
    s.elog.count .ioError ≤ 1 := by
  obtain ⟨-, -, hstopped, hterminated, -⟩ := hs
  obtain hl | hl := hl
  · exact (hstopped hl).2.trans_le (Nat.zero_le 1)
  · exact (hterminated hl).le

/-- What LIFE says of the rest is kept by every operation but those of the decoder executed without a running engine, which
could open a frame (log 13). -/
theorem Effect.keeps_lifeInv {s t : State} {i : Instr} (h : Effect s i t) (hi : i.isDecoderOp = true → s.life = .running)
    (hs : lifeInv s) : lifeInv t := by
  have running (hrun : i.isDecoderOp = true ∨ s.life = .running) : s.life = .running := hrun.elim hi id
  have ⟨hopen, hrunning, hstopped, hterminated, habsent⟩ := hs
  cases h with
  | kept hb =>
    rw [lifeInv, hb.life, hb.openF, hb.portOwner, hb.elog, hb.cancel, hb.fq]; exact hs
  | decoder hrun | push hrun =>
    have hl := running hrun
    exact lifeInv_of_running hl (hrunning hl)
  | framingError hrun hk =>
    have hl := running hrun
    obtain ⟨hp, hc⟩ := hrunning hl
    exact lifeInv_of_running hl ⟨hp, by simp [List.count_append, hc, hk]⟩
  | ioError hr =>
    obtain ⟨-, hc⟩ := hrunning (canRead_iff.mp hr).1
    exact lifeInv_of_terminated rfl ⟨rfl, by simp [ioErrorEntry, List.count_append, hc]⟩
  | stopAck hr =>
    obtain ⟨hl, hcancel⟩ := canStop_iff.mp hr
    exact lifeInv_of_stopped rfl ⟨rfl, hcancel, (hrunning hl).2⟩
  | start => exact lifeInv_of_running rfl ⟨rfl, rfl⟩
  | drop hl => exact lifeInv_of_absent rfl ⟨rfl, rfl, rfl, rfl, ioError_count_le_one (s := s) hs hl⟩
  | stopReq hl =>
    exact ⟨hopen, hrunning, fun h => ⟨rfl, (hstopped h).2⟩, hterminated, fun h => absurd h hl⟩
  | dropRunning hl => exact lifeInv_of_running hl (hrunning hl)
  | join hl =>
    refine ⟨hopen, fun h => ?_, hstopped, hterminated, fun h => ⟨rfl, (habsent h).2⟩⟩
    have h : s.life = .running := h
    simp [h] at hl
  | flush hl hu =>
    obtain rfl | rfl := hu
    · exact ⟨fun _ => rfl, hrunning, hstopped, hterminated, fun h => absurd h hl⟩
    · exact ⟨hopen, hrunning, hstopped, hterminated, fun h => absurd h hl⟩
  | popFrame hl => exact ⟨hopen, hrunning, hstopped, hterminated, fun h => absurd h hl⟩
  | emit | popNothing => exact hs

theorem Effect.keeps_inv {s t : State} {i : Instr} (h : Effect s i t) (hi : i.isDecoderOp = true → s.life = .running)
    (hs : Inv s) : Inv t := by
  obtain ⟨hd, hf, hw, hl⟩ := hs
  exact ⟨h.keeps_decoderInv hd, h.keeps_framesInv hd hf, h.keeps_withinLimits hw, h.keeps_lifeInv hi hl⟩

/-- The invariant is about the block alone. -/
theorem SameBlock.inv {s t : State} (h : SameBlock s t) (hs : Inv s) : Inv t :=
  (Effect.kept (i := .rxIdle) h).keeps_inv nofun hs

/-! ### What each effect does to the outputs and the queue -/

theorem Effect.cfg {s t : State} {i : Instr} (h : Effect s i t) : t.cfg = s.cfg := by
  cases h with
  | kept hb => exact hb.cfg
  | flush _ hu => obtain rfl | rfl := hu <;> rfl
  | decoder | push | framingError | emit | ioError | stopAck | start | stopReq | join | dropRunning | drop | popFrame
  | popNothing => rfl

theorem Effect.txOut {s t : State} {i : Instr} (h : Effect s i t) : ∃ w, t.txOut = s.txOut ++ w := by
  cases h with
  | kept hb => exact ⟨[], by simp [hb.txOut]⟩
  | emit => exact ⟨_, rfl⟩
  | flush _ hu => obtain rfl | rfl := hu <;> exact ⟨[], (List.append_nil _).symm⟩
  | decoder | push | framingError | ioError | stopAck | start | stopReq | join | dropRunning | drop | popFrame
  | popNothing => exact ⟨[], (List.append_nil _).symm⟩

/-- The log is kept, or grows by one report, or is begun anew by C.START (10_state R32, 60_exceptions R162). -/
theorem Effect.elog {s t : State} {i : Instr} (h : Effect s i t) :
    t.elog = s.elog ∨ (∃ k, t.elog = s.elog ++ [k]) ∨ (s.life = .absent ∧ t.life = .running ∧ t.elog = []) := by
  cases h with
  | kept hb => exact .inl hb.elog
  | framingError | ioError => exact .inr (.inl ⟨_, rfl⟩)
  | start hl => exact .inr (.inr ⟨hl, rfl, rfl⟩)
  | flush _ hu => obtain rfl | rfl := hu <;> exact .inl rfl
  | decoder | push | emit | stopAck | stopReq | join | dropRunning | drop | popFrame | popNothing => exact .inl rfl

/-- The queue's discipline (20_memory R56): kept, grown at its tail, or emptied, with nothing handed over; its head handed
over; or a poll of an empty queue answered. -/
theorem Effect.queue {s t : State} {i : Instr} (h : Effect s i t) :
    (t.polls = s.polls ∧ (t.fq = s.fq ∨ (∃ f, t.fq = s.fq ++ [f]) ∨ t.fq = [])) ∨
      (∃ f, s.fq = f :: t.fq ∧ t.polls = s.polls ++ [.frame f]) ∨
      (t.fq = s.fq ∧ s.fq = [] ∧ (t.polls = s.polls ++ [.empty] ∨ t.polls = s.polls ++ [.closed])) := by
  cases h with
  | kept hb => exact .inl ⟨hb.polls, .inl hb.fq⟩
  | push => exact .inl ⟨rfl, .inr (.inl ⟨_, rfl⟩)⟩
  | popFrame _ hq => exact .inr (.inl ⟨_, hq, rfl⟩)
  | popNothing _ hq hr =>
    refine .inr (.inr ⟨rfl, hq, ?_⟩)
    obtain rfl | rfl := hr
    · exact .inl rfl
    · exact .inr rfl
  | flush _ hu => obtain rfl | rfl := hu <;> exact .inl ⟨rfl, .inr (.inr rfl)⟩
  | start | drop => exact .inl ⟨rfl, .inr (.inr rfl)⟩
  | decoder | framingError | emit | ioError | stopAck | stopReq | join | dropRunning => exact .inl ⟨rfl, .inl rfl⟩

/-! ### The obligations -/

/-- Settles O39: the step's operation has one of the effects, and each keeps the four parts of the invariant. -/
theorem everyStepKeepsTheInvariant : Obligations.EveryStepKeepsTheInvariant := by
  intro s s' hs h
  obtain ⟨t, i, hb, hi, he⟩ := step_effect h
  exact he.keeps_inv (by simp [hi]) (hb.inv hs)

/-- Settles O33: only the effects of C.START, C.JOIN and C.DROP write PORT_OWNER. -/
theorem portHandover : Obligations.PortHandover := by
  intro i s t h hne
  cases exec_effect h with
  | start => exact .inl ⟨rfl, rfl⟩
  | join => exact .inr ⟨.inl rfl, rfl⟩
  | drop => exact .inr ⟨.inr rfl, rfl⟩
  | kept hb => exact absurd hb.portOwner hne
  | flush _ hu => obtain rfl | rfl := hu <;> exact absurd rfl hne
  | decoder | push | framingError | emit | ioError | stopAck | stopReq | dropRunning | popFrame | popNothing =>
    exact absurd rfl hne

/-- Settles O34: only the effects of C.START, C.STOPREQ and C.DROP write CANCEL. -/
theorem cancelIsSetAndClearedByTheCaller : Obligations.CancelIsSetAndClearedByTheCaller := by
  intro i s t h hne
  cases exec_effect h with
  | start => exact .inr ⟨rfl, .inl rfl⟩
  | stopReq => exact .inl ⟨rfl, .inl rfl⟩
  | dropRunning hl => exact .inl ⟨rfl, .inr ⟨rfl, hl⟩⟩
  | drop hl => exact .inr ⟨rfl, .inr ⟨rfl, by obtain hl | hl := hl <;> simp [hl]⟩⟩
  | kept hb => exact absurd hb.cancel hne
  | flush _ hu => obtain rfl | rfl := hu <;> exact absurd rfl hne
  | decoder | push | framingError | emit | ioError | stopAck | join | popFrame | popNothing => exact absurd rfl hne

/-- Settles O42, output by output, by what each effect does to it. -/
theorem outputsAreAppendOnly : Obligations.OutputsAreAppendOnly := by
  intro s s' h
  obtain ⟨t, i, hb, -, he⟩ := step_effect h
  rw [← hb.elog, ← hb.life, ← hb.txOut, ← hb.cfg]
  exact ⟨he.elog, he.txOut, he.cfg⟩

/-- Settles O43, by what each effect does to the queue and the polls. -/
theorem queueIsFirstInFirstOut : Obligations.QueueIsFirstInFirstOut := by
  intro s s' h
  obtain ⟨t, i, hb, -, he⟩ := step_effect h
  rw [← hb.polls, ← hb.fq]
  exact he.queue

/-- Settles O1: power-up by definition, C.START by the state it leaves. -/
theorem resetAndStartValues : Obligations.ResetAndStartValues := by
  refine ⟨⟨rfl, rfl, rfl, rfl, rfl, rfl, rfl, rfl, rfl, rfl⟩, fun s t h => ?_⟩
  obtain ⟨-, -, rfl⟩ := execCStart_next h
  exact ⟨rfl, rfl, rfl, rfl, rfl, rfl, rfl, rfl, rfl, rfl⟩

theorem stFqEmpty_iff {s : State} : s.stFqEmpty = true ↔ s.fq = [] := List.isEmpty_iff

theorem stFqClosed_iff {s : State} :
    s.stFqClosed = true ↔ (s.life = .stopped ∨ s.life = .terminated) ∧ s.fq = [] := by
  rw [State.stFqClosed, Bool.and_eq_true, ended_iff, List.isEmpty_iff]

/-- Settles O30: the two derived fields by their equivalences, the rest by definition. -/
theorem statusViewShowsTheState : Obligations.StatusViewShowsTheState := by
  refine ⟨fun s => ⟨rfl, rfl, rfl, rfl, stFqEmpty_iff, stFqClosed_iff, rfl⟩, fun s hs => ?_, rfl, fun s hs => ?_⟩
  · obtain rfl | hs := hs
    · exact ⟨rfl, rfl, rfl, rfl, rfl, rfl⟩
    · obtain ⟨-, -, rfl⟩ := execCStart_next hs
      exact ⟨rfl, rfl, rfl, rfl, rfl, rfl⟩
  · obtain ⟨-, -, rfl⟩ := execCStart_next hs
    rfl

/-- Settles O38: every field is at its reset value, and nothing has been emitted. -/
theorem resetMeetsTheInvariant : Obligations.ResetMeetsTheInvariant :=
  ⟨⟨RegsInv.cleared, ⟨nofun, nofun⟩, ⟨rfl, rfl⟩, lifeInv_of_absent rfl ⟨rfl, rfl, rfl, rfl, Nat.zero_le 1⟩⟩, [], rfl⟩

end Sys2Proof.Machine

/-!
PROOFS. What the agents' turns do to the stores (20_memory): the turns that pass and the wait of C.JOIN, what an exceeded
limit refuses, and the order in which a stream is decoded.
-/

namespace Sys2Proof.Machine

/-! ### Turns that pass -/

theorem canRead_eq_false {s : State} (h : ¬(s.life = .running ∧ s.portOwner = .block)) : s.canRead = false :=
  Bool.eq_false_iff.mpr (mt canRead_iff.mp h)

theorem canStop_eq_false {s : State} (h : ¬(s.life = .running ∧ s.cancel = true)) : s.canStop = false :=
  Bool.eq_false_iff.mpr (mt canStop_iff.mp h)

theorem runSteps_succ_of_step {s t : State} {n : Nat} (h : step s = .next t) : runSteps (n + 1) s = runSteps n t := by
  rw [run_succ, h, andThen_next]

/-- A run begins with turns that pass: what is left is the rest of the run, from the state without those turns. -/
theorem runSteps_of_passing {us : List Turn} {s : State} (n : Nat) (ts : List Turn) (ht : s.turns = us ++ ts)
    (hp : ∀ u ∈ us, ∀ ts', step { s with turns := u :: ts' } = .next { s with turns := ts' }) :
    runSteps (us.length + n) s = runSteps n { s with turns := ts } := by
  induction us generalizing s with
  | nil => obtain rfl : s.turns = ts := ht; simp
  | cons u us ih =>
    obtain ⟨hu, hus⟩ := List.forall_mem_cons.mp hp
    have hs : step s = .next { s with turns := us ++ ts } := by rw [← hu, ← List.cons_append, ← ht]
    rw [List.length_cons, Nat.succ_add, runSteps_succ_of_step hs]
    exact ih rfl hus

/-- A turn of an engine that does not run passes (20_memory R61). -/
theorem step_passes_of_not_running {s : State} {u : Turn} (hl : s.life ≠ .running) (hu : u = .engine ∨ u = .ack)
    (ts : List Turn) : step { s with turns := u :: ts } = .next { s with turns := ts } := by
  obtain rfl | rfl := hu
  · exact step_engine_passes rfl (canRead_eq_false fun h => hl h.1)
  · exact step_ack_passes rfl (canStop_eq_false fun h => hl h.1)

/-- A turn of a caller in C.JOIN passes while the engine runs (42_receiver R137). -/
theorem step_passes_of_join_waiting {s : State} {es : List CallerEvent} (hl : s.life = .running)
    (hj : s.callerOps = .join :: es) (ts : List Turn) :
    step { s with turns := .caller :: ts } = .next { s with turns := ts } := by
  refine (step_caller (s := { s with turns := .caller :: ts }) rfl hj).trans ?_
  simp [decode, decodeCaller, exec, execCJoin, hl, State.callerContinues, ← hj]

/-! ### The turns that end a wait -/

/-- The engine's look at a set flag ends it (42_receiver R134). -/
theorem step_ack_of_cancel {s : State} {ts : List Turn} (ht : s.turns = .ack :: ts) (hl : s.life = .running)
    (hc : s.cancel = true) :
    step s = .next { s.clearDecoder with life := .stopped, turns := ts } := by
  have hs := canStop_iff.mpr ⟨hl, hc⟩
  rw [step_ack ht hs]
  exact if_pos hs

/-- C.JOIN of an engine that has ended takes the port (42_receiver R137). -/
theorem execCJoin_of_ended {s : State} (h : s.life = .stopped ∨ s.life = .terminated) :
    execCJoin s = .next { s with portOwner := .external } := by
  obtain h | h := h <;> simp [execCJoin, h]

theorem step_join_of_ended {s : State} {ts : List Turn} {es : List CallerEvent} (ht : s.turns = .caller :: ts)
    (hj : s.callerOps = .join :: es) (hl : s.life = .stopped ∨ s.life = .terminated) :
    step s = .next { s with portOwner := .external, callerOps := es, turns := ts } :=
  (step_caller ht hj).trans (execCJoin_of_ended hl)

/-- A run begins with a C.JOIN that waits for `k` turns of the caller, the acknowledgement of the flag, and the turn in
which the C.JOIN completes: the rest of the run is left (42_receiver R134, R137). -/
theorem runSteps_join_stopping {k : Nat} {s : State} {es : List CallerEvent} {ts : List Turn} (n : Nat)
    (hl : s.life = .running) (hc : s.cancel = true) (hj : s.callerOps = .join :: es)
    (ht : s.turns = List.replicate k .caller ++ (.ack :: .caller :: ts)) :
    runSteps (k + (n + 2)) s =
      runSteps n { s with life := .stopped, portOwner := .external, openF := false, escf := false, buf := [],
                          callerOps := es, turns := ts } := by
  have hwait := runSteps_of_passing (n + 2) _ ht fun u hu =>
    List.eq_of_mem_replicate hu ▸ step_passes_of_join_waiting hl hj
  have hack : step { s with turns := .ack :: .caller :: ts } =
      .next { s.clearDecoder with life := .stopped, turns := .caller :: ts } := step_ack_of_cancel rfl hl hc
  rw [List.length_replicate] at hwait
  rw [hwait, runSteps_succ_of_step hack]
  exact runSteps_succ_of_step (step_join_of_ended rfl hj (.inl rfl))

/-! ### A C.JOIN in a fair execution -/

theorem takeTurn_callerOps (s : State) : (takeTurn s).2.callerOps = s.callerOps := by
  unfold takeTurn; split <;> rfl

theorem rxTake_callerOps (s : State) : (rxTake s).2.callerOps = s.callerOps := by
  unfold rxTake; split <;> rfl

/-- A caller's turn, placed or drawn, runs the operation its oldest event selects. -/
theorem step_of_caller_turn {s : State} {e : CallerEvent} {es : List CallerEvent} (ht : (takeTurn s).1 = .caller)
    (hc : s.callerOps = e :: es) :
    step s = exec (decode (.caller e)) { (takeTurn s).2 with callerOps := es } := by
  have hn := nextCaller_cons ((takeTurn_callerOps s).trans hc)
  simp [step, ht, stepOf, fetch, runFetched, hn]

/-- What a step can do that is not the caller's: the engine runs and takes one of its steps, or the block and the caller's
events stay as they are (42_receiver R130, R143). -/
theorem step_cases_of_other_turn {s s' : State} (ht : (takeTurn s).1 ≠ .caller) (h : step s = .next s') :
    (s.life = .running ∧ ∃ x t, (x = .cancelSeen ∨ ∃ a, x = .answer a) ∧ SameBlock s t ∧ t.callerOps = s.callerOps ∧
        exec (decode x) t = .next s') ∨
      (SameBlock s s' ∧ s'.callerOps = s.callerOps) := by
  have hb := takeTurn_sameBlock s
  have hc := takeTurn_callerOps s
  unfold step at h
  generalize (takeTurn s).1 = u at h ht
  generalize (takeTurn s).2 = r at h hb hc
  cases u with
  | engine =>
    by_cases hr : r.canRead = true
    · have hf := hb.trans (fetch_sameBlock .engine r)
      simp only [stepOf, fetch_engine hr] at h hf
      exact .inl ⟨hb.life ▸ (canRead_iff.mp hr).1, _, _, .inr ⟨_, rfl⟩, hf, (rxTake_callerOps r).trans hc, h⟩
    · simp only [stepOf, fetch_engine_none (Bool.eq_false_iff.mpr hr), runFetched] at h
      cases h; exact .inr ⟨hb, hc⟩
  | ack =>
    by_cases hr : r.canStop = true
    · simp only [stepOf, fetch_ack hr] at h
      exact .inl ⟨hb.life ▸ (canStop_iff.mp hr).1, _, _, .inl rfl, hb, hc, h⟩
    · simp only [stepOf, fetch_ack_none (Bool.eq_false_iff.mpr hr), runFetched] at h
      cases h; exact .inr ⟨hb, hc⟩
  | caller => exact absurd rfl ht
  | outsider n =>
    obtain ⟨-, rfl⟩ := outsiderReads_eq_next.mp h
    exact .inr ⟨hb.trans ⟨rfl, rfl, rfl, rfl, rfl, rfl, rfl, rfl, rfl, rfl, rfl, rfl⟩, hc⟩

/-- What the engine's operations leave to a waiting caller: its events and CANCEL as they are, and an engine
(42_receiver R131 to R134). -/
structure LeavesCaller (s t : State) : Prop where
  callerOps : t.callerOps = s.callerOps
  cancel : t.cancel = s.cancel
  life : t.life ≠ .absent

theorem execRxByte_leavesCaller {b : Byte} {s t : State} (h : execRxByte b s = .next t) : LeavesCaller s t := by
  obtain ⟨hr, h⟩ := execRxByte_next h
  have hl : s.life ≠ .absent := by simp [(canRead_iff.mp hr).1]
  obtain ⟨_, _, _, -, -, rfl⟩ | ⟨_, _, _, _, -, -, -, rfl⟩ | ⟨_, -, he⟩ := h
  · exact ⟨rfl, rfl, hl⟩
  · exact ⟨rfl, rfl, hl⟩
  · obtain rfl | ⟨-, -, -, rfl⟩ := framingError_eq_next he <;> exact ⟨rfl, rfl, hl⟩

theorem exec_leavesCaller {x : Input} {s t : State} (hx : x = .cancelSeen ∨ ∃ a, x = .answer a)
    (h : exec (decode x) s = .next t) : LeavesCaller s t := by
  obtain rfl | ⟨a, rfl⟩ := hx
  · obtain ⟨-, rfl⟩ := execRxStopack_next h
    exact ⟨rfl, rfl, nofun⟩
  · cases a with
    | byte b => exact execRxByte_leavesCaller h
    | nodata =>
      obtain ⟨hr, rfl⟩ := execRxIdle_next h
      exact ⟨rfl, rfl, by simp [(canRead_iff.mp hr).1]⟩
    | ioerr =>
      obtain ⟨-, rfl⟩ := execRxIoerr_next h
      exact ⟨rfl, rfl, nofun⟩

/-- The caller's oldest operation is a C.JOIN that need not wait for ever: the engine has ended or is asked to end
(20_memory R63). -/
structure JoinPending (s : State) : Prop where
  life : s.life ≠ .absent
  cancel : s.life = .running → s.cancel = true
  head : s.callerOps.head? = some .join

/-- A pending C.JOIN completes at the next step: the engine does not run and the caller has its turn. -/
structure JoinDue (s : State) : Prop extends JoinPending s where
  notRunning : s.life ≠ .running
  turn : (takeTurn s).1 = .caller

theorem JoinDue.ended {s : State} (h : JoinDue s) : s.life = .stopped ∨ s.life = .terminated := by
  cases hs : s.life with
  | absent => exact absurd hs h.life
  | running => exact absurd hs h.notRunning
  | stopped => exact .inl rfl
  | terminated => exact .inr rfl

theorem JoinPending.of_sameBlock {s t : State} (h : JoinPending s) (hb : SameBlock s t)
    (hc : t.callerOps.head? = some .join) : JoinPending t :=
  ⟨hb.life ▸ h.life, fun hr => hb.cancel.trans (h.cancel (hb.life ▸ hr)), hc⟩

/-- A C.JOIN that is due takes the port and is finished (42_receiver R137). -/
theorem JoinDue.step {s : State} (h : JoinDue s) :
    step s = .next { (takeTurn s).2 with portOwner := .external, callerOps := s.callerOps.drop 1 } := by
  obtain ⟨es, hes⟩ := List.head?_eq_some_iff.mp h.head
  have hl := (takeTurn_sameBlock s).life ▸ h.ended
  rw [step_of_caller_turn h.turn hes, hes]
  exact execCJoin_of_ended hl

/-- A caller's turn with a C.JOIN that waits changes neither the block nor the caller's events. -/
theorem step_of_join_waiting {s s' : State} (ht : (takeTurn s).1 = .caller) (hl : s.life = .running)
    (hj : s.callerOps.head? = some .join) (h : step s = .next s') : SameBlock s s' ∧ s'.callerOps = s.callerOps := by
  obtain ⟨es, hes⟩ := List.head?_eq_some_iff.mp hj
  have hb := takeTurn_sameBlock s
  rw [step_of_caller_turn ht hes] at h
  obtain ⟨-, rfl⟩ | ⟨he, -⟩ := execCJoin_next h
  · exact ⟨hb.trans ⟨rfl, rfl, rfl, rfl, rfl, rfl, rfl, rfl, rfl, rfl, rfl, rfl⟩, hes.symm⟩
  · simp [hb.life, hl] at he

/-- A step at which a pending C.JOIN is not due keeps it pending, and an engine that has ended stays so. -/
theorem JoinPending.step {s s' : State} (h : JoinPending s) (hd : ¬JoinDue s) (hs : step s = .next s') :
    JoinPending s' ∧ (s.life ≠ .running → s'.life ≠ .running) := by
  have idle (k : SameBlock s s' ∧ s'.callerOps = s.callerOps) :
      JoinPending s' ∧ (s.life ≠ .running → s'.life ≠ .running) :=
    ⟨h.of_sameBlock k.1 (k.2 ▸ h.head), fun hl => k.1.life ▸ hl⟩
  by_cases ht : (takeTurn s).1 = .caller
  · have hl : s.life = .running := by_contra fun hl => hd ⟨h, hl, ht⟩
    exact idle (step_of_join_waiting ht hl h.head hs)
  · obtain ⟨hl, x, t, hx, hb, hc, he⟩ | k := step_cases_of_other_turn ht hs
    · have k := exec_leavesCaller hx he
      exact ⟨⟨k.life, fun _ => (k.cancel.trans hb.cancel).trans (h.cancel hl), by rw [k.callerOps, hc, h.head]⟩,
        fun hn => absurd hl hn⟩
    · exact idle k

/-- Along an execution, a C.JOIN that is pending and never due from a step on stays pending, and an engine that has ended
by then stays so. -/
theorem JoinPending.along {e : Nat → State} {n : Nat} (he : IsExecution e) (h : JoinPending (e n))
    (hd : ∀ m, n ≤ m → ¬JoinDue (e m)) {m : Nat} (hm : n ≤ m) :
    JoinPending (e m) ∧ ((e n).life ≠ .running → (e m).life ≠ .running) := by
  induction m, hm using Nat.le_induction with
  | base => exact ⟨h, id⟩
  | succ m hm ih =>
    obtain ⟨hp, hl⟩ := ih
    obtain ⟨s, hs, hsup⟩ := he m
    obtain ⟨hp', hl'⟩ := hp.step (hd m hm) hs
    exact ⟨hp'.of_sameBlock hsup.sameBlock (hsup.callerOps_head hp'.head),
      fun hn => hsup.sameBlock.life ▸ hl' (hl hn)⟩

/-- In a fair execution a pending C.JOIN becomes due: fairness first ends the engine and then gives the
caller its turn (42_receiver R149, 20_memory R63). -/
theorem JoinPending.exists_due {e : Nat → State} {n : Nat} (he : IsExecution e) (hf : Fair e) (h : JoinPending (e n)) :
    ∃ m, n ≤ m ∧ JoinDue (e m) := by
  obtain ⟨hstop, -, hturn⟩ := hf
  by_contra hno
  have hnot : ∀ m, n ≤ m → ¬JoinDue (e m) := fun m hm hd => hno ⟨m, hm, hd⟩
  have hended : ∃ m, n ≤ m ∧ (e m).life ≠ .running := by
    by_cases hl : (e n).life = .running
    · exact hstop n hl (h.cancel hl)
    · exact ⟨n, le_rfl, hl⟩
  obtain ⟨m, hm, hl⟩ := hended
  have hp := (h.along he hnot hm).1
  obtain ⟨k, hk, hcaller⟩ := hturn m hl hp.head
  obtain ⟨hpk, hlk⟩ := hp.along he (fun i hi => hnot i (hm.trans hi)) hk
  exact hnot k (hm.trans hk) ⟨hpk, hlk hl, hcaller⟩

/-! ### Exceeded limits -/

theorem mode_idle {s : State} (ho : s.openF = false) : s.mode = .idle := by simp [State.mode, ho]

theorem mode_body {s : State} (ho : s.openF = true) (hx : s.escf = false) : s.mode = .body := by simp [State.mode, ho, hx]

theorem mode_escape {s : State} (ho : s.openF = true) (hx : s.escf = true) : s.mode = .escape := by
  simp [State.mode, ho, hx]

theorem decodeStep_literal {b : Byte} {u : List Byte} (hb : b ≠ DELIM) (hb' : b ≠ ESC) :
    decodeStep b true false u = .ok true false (u ++ [b]) none := by
  simp [decodeStep, hb, hb']

theorem storeDecoder_refused {o x : Bool} {u : List Byte} {s : State} (h : fits s.cfg.frameMax u.length = false) :
    storeDecoder o x u s = .refused .frameTooLong := by
  simp [storeDecoder, h]

theorem bufAppend_refused {v : Byte} {s : State} (h : fits s.cfg.frameMax (s.buf.length + 1) = false) :
    bufAppend v s = .refused .frameTooLong := by
  simp [bufAppend, h]

/-- The append of an escape pair's value to a full buffer is refused (40_decoder R96, R97). -/
theorem appendPair_refused {v : Byte} {s : State} (h : fits s.cfg.frameMax (s.buf.length + 1) = false) :
    andThen (bufAppend v s) (fun t => .next (t.setEscf false)) = .refused .frameTooLong := by
  rw [bufAppend_refused h, andThen_refused]

/-- The empty buffer fits in every limit. -/
theorem storeDecoder_cleared (s : State) : storeDecoder false false [] s = .next s.clearDecoder :=
  if_pos (fits_zero _)

theorem fqPush_refused {f : Frame} {s : State} (h : fits s.cfg.fqDepth (s.fq.length + 1) = false) :
    fqPush f s = .refused .queueFull := by
  simp [fqPush, h]

/-- RX.BYTE of a byte that completes no frame stores the registers `decode_step` gives (42_receiver R131). -/
theorem execRxByte_of_stored {b : Byte} {s : State} {o x : Bool} {u : List Byte} (hr : s.canRead = true)
    (hd : decodeStep b s.openF s.escf s.buf = .ok o x u none) : execRxByte b s = storeDecoder o x u s := by
  simp [execRxByte, hr, hd]

/-- RX.BYTE of a byte that completes a frame stores the registers and pushes the frame (42_receiver R131). -/
theorem execRxByte_of_completed {b : Byte} {s : State} {o x : Bool} {u : List Byte} {f : Frame} (hr : s.canRead = true)
    (hd : decodeStep b s.openF s.escf s.buf = .ok o x u (some f)) :
    execRxByte b s = andThen (storeDecoder o x u s) (fqPush f) := by
  simp [execRxByte, hr, hd]

/-- RX.BYTE of a byte that extends a full buffer is refused (42_receiver R150). -/
theorem execRxByte_refused_of_append {b v : Byte} {s : State}
    (hf : fits s.cfg.frameMax (s.buf.length + 1) = false) (hr : s.canRead = true)
    (hd : decodeStep b s.openF s.escf s.buf = .ok true false (s.buf ++ [v]) none) :
    execRxByte b s = .refused .frameTooLong := by
  rw [execRxByte_of_stored hr hd, storeDecoder_refused (by simpa using hf)]

/-! ### The order of a stream -/

/-- The registers after a stream do not depend on the queue and the log, which only grow by what the stream completes and
reports (40_decoder R102, 20_memory R58). -/
theorem feed_eq_append (d : Regs) (q : List Frame) (e : List Report) (bs : List Byte) :
    feed d q e bs =
      ((feed d [] [] bs).1, q ++ (feed d [] [] bs).2.1, e ++ (feed d [] [] bs).2.2) := by
  induction bs generalizing d q e with
  | nil => simp [feed]
  | cons b bs ih =>
    simp only [feed]
    split
    · exact ih ..
    · rw [ih, ih _ ([] ++ _)]; simp
    · rw [ih, ih _ _ ([] ++ _)]; simp

/-- A stream is decoded byte by byte: what its first part does, and then what the rest does from there. -/
theorem feed_append (d : Regs) (q : List Frame) (e : List Report) (bs cs : List Byte) :
    feed d q e (bs ++ cs) = feed (feed d q e bs).1 (feed d q e bs).2.1 (feed d q e bs).2.2 cs := by
  induction bs generalizing d q e with
  | nil => rfl
  | cons b bs ih =>
    simp only [List.cons_append, feed]
    split <;> exact ih ..

/-! ### The obligations -/

/-- Settles O46: the waiting turns pass and the engine's acknowledgement makes the C.JOIN due; in a fair execution it
becomes due at some step. -/
theorem joinWaitsForTheEngineAndCompletes : Obligations.JoinWaitsForTheEngineAndCompletes := by
  refine ⟨fun k s es ts => runSteps_join_stopping 0, fun e n he hf hl hc hj => ?_⟩
  obtain ⟨m, hm, hd⟩ := JoinPending.exists_due he hf ⟨hl, hc, hj⟩
  exact ⟨m, hm, hd.ended, hd.turn, hd.head, hd.step⟩

/-- Settles O49: every turn of an engine that does not run passes. -/
theorem endedEngineTakesNoStep : Obligations.EndedEngineTakesNoStep := fun _us ts _s hl hu ht =>
  runSteps_of_passing 0 ts ht fun u h => step_passes_of_not_running hl (hu u h)

/-- Settles O56: the queue and the log a stream starts with stay in front of what it adds. -/
theorem streamsAreDecodedInOrder : Obligations.StreamsAreDecodedInOrder := by
  intro d q e bs cs
  rw [feed_append]
  refine ⟨rfl, ?_⟩
  rw [feed_eq_append]
  exact ⟨⟨_, rfl⟩, _, rfl⟩

/-- Settles O15: each operation answers what the refused store primitive answers. -/
theorem exceededLimitsAreRefused : Obligations.ExceededLimitsAreRefused := by
  refine ⟨fun s ho hx hf b hb hb' => ?_, fun s ho hx hf => ?_, fun s ho hf => ?_, fun s ho hx hq => ?_⟩
  · have hm := mode_body ho hx
    have hd : decodeStep b s.openF s.escf s.buf = .ok true false (s.buf ++ [b]) none := by
      rw [ho, hx, decodeStep_literal hb hb']
    exact ⟨(if_pos ⟨hm, hb, hb'⟩).trans (bufAppend_refused hf), fun hr => execRxByte_refused_of_append hf hr hd⟩
  · have hm := mode_escape ho hx
    have hd : decodeStep SUB_DELIM s.openF s.escf s.buf = .ok true false (s.buf ++ [DELIM]) none := by rw [ho, hx]; rfl
    have hd' : decodeStep SUB_ESC s.openF s.escf s.buf = .ok true false (s.buf ++ [ESC]) none := by rw [ho, hx]; rfl
    exact ⟨(if_pos hm).trans (appendPair_refused hf), (if_pos hm).trans (appendPair_refused hf),
      fun hr => ⟨execRxByte_refused_of_append hf hr hd, execRxByte_refused_of_append hf hr hd'⟩⟩
  · have hd : decodeStep DELIM s.openF s.escf s.buf = .ok true false [DELIM] none := by rw [ho]; rfl
    exact ⟨(if_pos (mode_idle ho)).trans (storeDecoder_refused hf),
      fun hr => (execRxByte_of_stored hr hd).trans (storeDecoder_refused hf)⟩
  · have hd : decodeStep DELIM s.openF s.escf s.buf = .ok false false [] (some (s.buf ++ [DELIM])) := by
      rw [ho, hx]; rfl
    refine ⟨(if_pos (mode_body ho hx)).trans ?_, fun hr => (execRxByte_of_completed hr hd).trans ?_⟩
    · rw [fqPush_refused hq, andThen_refused]
    · rw [storeDecoder_cleared, andThen_next]
      exact fqPush_refused hq

/-- Settles O36, turn by turn: what the turn fetches, or that it passes. -/
theorem stepRunsTheDecodedInstruction : Obligations.StepRunsTheDecodedInstruction :=
  ⟨fun _ _ _ _ ht ha hl hp => step_engine ht ha (canRead_iff.mpr ⟨hl, hp⟩),
    fun _ _ ht hl hc => step_ack ht (canStop_iff.mpr ⟨hl, hc⟩),
    fun _ _ _ _ ht he => step_caller ht he,
    fun _ _ ht hr => step_engine_passes ht (canRead_eq_false hr),
    fun _ _ ht hs => step_ack_passes ht (canStop_eq_false hs)⟩

end Sys2Proof.Machine

/-!
PROOFS. The selection of operations (30_encoding): decode and encode are inverse, which encodings are illegal, what a
payload byte's operation emits, and the step that runs a placed word.
-/

namespace Sys2Proof

/-! ### Decode of encode, encode of decode -/

theorem wellFormed_dJunk {b : Byte} : (Instr.dJunk b).wellFormed = true ↔ b ≠ DELIM := by simp [Instr.wellFormed]

theorem wellFormed_dLit {b : Byte} : (Instr.dLit b).wellFormed = true ↔ b ≠ DELIM ∧ b ≠ ESC := by
  simp [Instr.wellFormed]

theorem wellFormed_dBadesc {b : Byte} : (Instr.dBadesc b).wellFormed = true ↔ b ≠ SUB_DELIM ∧ b ≠ SUB_ESC := by
  simp [Instr.wellFormed]

theorem wellFormed_eLit {b : Byte} : (Instr.eLit b).wellFormed = true ↔ b ≠ DELIM ∧ b ≠ ESC := by
  simp [Instr.wellFormed]

/-- Each operation's input selects it again: its cell of the table, or its row of the ports (30_encoding R74, R76, R77). -/
theorem decode_encode {i : Instr} (h : i.wellFormed = true) : decode (encode i) = i := by
  cases i with
  | dJunk b => exact (decodeRx_idle b).trans (if_neg (wellFormed_dJunk.mp h))
  | dLit b =>
    obtain ⟨hd, he⟩ := wellFormed_dLit.mp h
    exact (decodeRx_body b).trans ((if_neg he).trans (if_neg hd))
  | dBadesc b =>
    obtain ⟨hd, he⟩ := wellFormed_dBadesc.mp h
    exact (decodeRx_escape b).trans ((if_neg hd).trans (if_neg he))
  | eLit b =>
    obtain ⟨hd, he⟩ := wellFormed_eLit.mp h
    exact (decodeTx_eq b).trans ((if_neg hd).trans (if_neg he))
  | dOpen | dEsc | dClose | dXdelim | dXesc | eStart | eXdelim | eXesc | eEnd | rxByte | rxIdle | rxIoerr | rxStopack
  | cStart | cStopreq | cJoin | cDrop | cFlush | qPop => rfl

/-- The decode table cell by cell: each byte selects a well-formed operation, whose input is that cell (30_encoding R74). -/
theorem decodeRx_wellFormed_encode (m : Mode) (b : Byte) :
    (decodeRx m b).wellFormed = true ∧ encode (decodeRx m b) = .rx m b := by
  cases m with
  | idle =>
    rw [decodeRx_idle]
    split
    next hb => exact ⟨rfl, hb ▸ rfl⟩
    next hb => exact ⟨wellFormed_dJunk.mpr hb, rfl⟩
  | body =>
    rw [decodeRx_body]
    split
    next hb => exact ⟨rfl, hb ▸ rfl⟩
    next he =>
      split
      next hb => exact ⟨rfl, hb ▸ rfl⟩
      next hd => exact ⟨wellFormed_dLit.mpr ⟨hd, he⟩, rfl⟩
  | escape =>
    rw [decodeRx_escape]
    split
    next hb => exact ⟨rfl, hb ▸ rfl⟩
    next hd =>
      split
      next hb => exact ⟨rfl, hb ▸ rfl⟩
      next he => exact ⟨wellFormed_dBadesc.mpr ⟨hd, he⟩, rfl⟩

/-- Each payload byte selects a well-formed operation, whose input is that byte (30_encoding R76). -/
theorem decodeTx_wellFormed_encode (b : Byte) :
    (decodeTx b).wellFormed = true ∧ encode (decodeTx b) = .caller (.payload b) := by
  rw [decodeTx_eq]
  split
  next hb => exact ⟨rfl, hb ▸ rfl⟩
  next hd =>
    split
    next hb => exact ⟨rfl, hb ▸ rfl⟩
    next he => exact ⟨wellFormed_eLit.mpr ⟨hd, he⟩, rfl⟩

/-- Every input selects one well-formed operation, which has no other input (30_encoding R78, R79). -/
theorem decode_wellFormed_encode (x : Input) : (decode x).wellFormed = true ∧ encode (decode x) = x := by
  cases x with
  | rx m b => exact decodeRx_wellFormed_encode m b
  | answer a => cases a <;> exact ⟨rfl, rfl⟩
  | cancelSeen => exact ⟨rfl, rfl⟩
  | caller e =>
    cases e with
    | payload b => exact decodeTx_wellFormed_encode b
    | frameStart | frameFinish | start | stopReq | join | drop | flush | pop => exact ⟨rfl, rfl⟩

/-! ### The illegal encodings of a mode -/

theorem decodeRx_idle_eq_dJunk {b : Byte} : decodeRx .idle b = .dJunk b ↔ b ≠ DELIM := by
  rw [decodeRx_idle]; split <;> simp_all

theorem decodeRx_escape_eq_dBadesc {b : Byte} : decodeRx .escape b = .dBadesc b ↔ b ≠ SUB_DELIM ∧ b ≠ SUB_ESC := by
  rw [decodeRx_escape]; split <;> [skip; split] <;> simp_all

/-- No byte is illegal in mode BODY (30_encoding R78). -/
theorem decodeRx_body_legal (b c : Byte) : decodeRx .body b ≠ .dJunk c ∧ decodeRx .body b ≠ .dBadesc c := by
  rw [decodeRx_body]; split <;> [skip; split] <;> exact ⟨nofun, nofun⟩

/-- The 256 byte values, each once. -/
def byteValues : List Byte := (List.range 256).map (BitVec.ofNat 8)

theorem nodup_byteValues : byteValues.Nodup := by
  refine List.nodup_range.map_on fun m hm n hn h => ?_
  rw [List.mem_range] at hm hn
  simpa [Nat.mod_eq_of_lt hm, Nat.mod_eq_of_lt hn] using congrArg BitVec.toNat h

theorem mem_byteValues (b : Byte) : b ∈ byteValues :=
  List.mem_map.mpr ⟨b.toNat, List.mem_range.mpr b.isLt, by simp⟩

/-- All byte values but the listed ones: 256 less their number. -/
theorem countP_notMem_of_nodup {l : List Byte} (h : l.Nodup) :
    (List.range 256).countP (fun n => BitVec.ofNat 8 n ∉ l) = 256 - l.length := by
  have hperm : (byteValues.filter (· ∈ l)).Perm l :=
    (List.perm_ext_iff_of_nodup (nodup_byteValues.filter _) h).mpr fun b => by simp [mem_byteValues]
  have hsum := List.length_eq_countP_add_countP (· ∈ l) (l := byteValues)
  rw [List.countP_eq_length_filter, hperm.length_eq, byteValues, List.countP_map, List.length_map,
    List.length_range] at hsum
  exact Nat.eq_sub_of_add_eq' (by simpa [Function.comp_def] using hsum.symm)

end Sys2Proof

namespace Sys2Proof.Machine

/-! ### What a payload byte's operation emits -/

theorem execEXdelim_of_txOpen {s : State} (h : s.txOpen = true) :
    execEXdelim s = .next { s with txOut := s.txOut ++ [ESC, SUB_DELIM] } := by
  simp [execEXdelim, h, State.txEmit]

theorem execEXesc_of_txOpen {s : State} (h : s.txOpen = true) :
    execEXesc s = .next { s with txOut := s.txOut ++ [ESC, SUB_ESC] } := by
  simp [execEXesc, h, State.txEmit]

theorem execELit_of_txOpen {b : Byte} {s : State} (h : s.txOpen = true) (hd : b ≠ DELIM) (he : b ≠ ESC) :
    execELit b s = .next { s with txOut := s.txOut ++ [b] } := by
  simp [execELit, h, hd, he, State.txEmit]

/-- The operation a payload byte selects emits the byte's escape (41_encoder R121). -/
theorem exec_decodeTx {s : State} (h : s.txOpen = true) (b : Byte) :
    exec (decodeTx b) s = .next { s with txOut := s.txOut ++ escapeByte b } := by
  unfold escapeByte
  rw [decodeTx_eq]
  split
  · exact execEXdelim_of_txOpen h
  · split
    · exact execEXesc_of_txOpen h
    · exact execELit_of_txOpen h ‹_› ‹_›

/-! ### RX.BYTE executes the decoder operation that the mode and the byte select -/

theorem storeDecoder_of_fits {o x : Bool} {u : List Byte} {s : State} (h : fits s.cfg.frameMax u.length = true) :
    storeDecoder o x u s = .next (s.setDecoder o x u) :=
  if_pos h

theorem bufAppend_eq_storeDecoder (v : Byte) (s : State) :
    bufAppend v s = storeDecoder s.openF s.escf (s.buf ++ [v]) s := by
  simp [bufAppend, storeDecoder, State.setDecoder]

/-- The append of an escape pair's value, as one store of the registers (40_decoder R96, R97). -/
theorem appendPair_eq_storeDecoder (v : Byte) (s : State) :
    andThen (bufAppend v s) (fun t => .next (t.setEscf false)) = storeDecoder s.openF false (s.buf ++ [v]) s := by
  rw [bufAppend_eq_storeDecoder]
  unfold storeDecoder
  split <;> rfl

/-- A frame pushed before the decoder is cleared, or after (40_decoder R94, 42_receiver R131). -/
theorem fqPush_clearDecoder_comm (f : Frame) (s : State) :
    andThen (fqPush f s) (fun t => .next t.clearDecoder) = fqPush f s.clearDecoder := by
  cases hq : fits s.cfg.fqDepth (s.fq.length + 1) with
  | true =>
    rw [fqPush_eq_next.mpr ⟨hq, rfl⟩, andThen_next]
    exact (fqPush_eq_next (s := s.clearDecoder).mpr ⟨hq, rfl⟩).symm
  | false =>
    rw [fqPush_refused hq, andThen_refused]
    exact (fqPush_refused (s := s.clearDecoder) hq).symm

/-- RX.BYTE of a byte that raises an error takes it (42_receiver R131). -/
theorem execRxByte_of_error {b : Byte} {s : State} {k : Report} (hr : s.canRead = true)
    (hd : decodeStep b s.openF s.escf s.buf = .err k) : execRxByte b s = framingError k b s := by
  simp [execRxByte, hr, hd]

theorem execRxByte_idle {b : Byte} {s : State} (hr : s.canRead = true) (ho : s.openF = false) :
    execRxByte b s = exec (decodeRx .idle b) s := by
  have hm := mode_idle ho
  rw [decodeRx_idle]
  split
  next hb =>
    subst hb
    have hd : decodeStep DELIM s.openF s.escf s.buf = .ok true false [DELIM] none := by rw [ho]; rfl
    exact (execRxByte_of_stored hr hd).trans (if_pos hm).symm
  next hb =>
    have hd : decodeStep b s.openF s.escf s.buf = .err .unexpectedByte := by simp [decodeStep, ho, hb]
    exact (execRxByte_of_error hr hd).trans (if_pos ⟨hm, hb⟩).symm

/-- The escape byte is stored without growing the buffer, so the buffer must already fit. -/
theorem execRxByte_body {b : Byte} {s : State} (hr : s.canRead = true) (ho : s.openF = true) (hx : s.escf = false)
    (hf : fits s.cfg.frameMax s.buf.length = true) : execRxByte b s = exec (decodeRx .body b) s := by
  have hm := mode_body ho hx
  rw [decodeRx_body]
  split
  next hb =>
    subst hb
    have hd : decodeStep ESC s.openF s.escf s.buf = .ok s.openF true s.buf none := by rw [ho, hx]; rfl
    rw [execRxByte_of_stored hr hd, storeDecoder_of_fits hf]
    exact (if_pos hm).symm
  next hb =>
    split
    next hb' =>
      subst hb'
      have hd : decodeStep DELIM s.openF s.escf s.buf = .ok false false [] (some (s.buf ++ [DELIM])) := by
        rw [ho, hx]; rfl
      rw [execRxByte_of_completed hr hd, storeDecoder_cleared, andThen_next, ← fqPush_clearDecoder_comm]
      exact (if_pos hm).symm
    next hb' =>
      have hd : decodeStep b s.openF s.escf s.buf = .ok s.openF s.escf (s.buf ++ [b]) none := by
        rw [ho, hx, decodeStep_literal hb' hb]
      rw [execRxByte_of_stored hr hd, ← bufAppend_eq_storeDecoder]
      exact (if_pos ⟨hm, hb', hb⟩).symm

theorem execRxByte_escape {b : Byte} {s : State} (hr : s.canRead = true) (ho : s.openF = true) (hx : s.escf = true) :
    execRxByte b s = exec (decodeRx .escape b) s := by
  have hm := mode_escape ho hx
  rw [decodeRx_escape]
  split
  next hb =>
    subst hb
    have hd : decodeStep SUB_DELIM s.openF s.escf s.buf = .ok s.openF false (s.buf ++ [DELIM]) none := by
      rw [ho, hx]; rfl
    rw [execRxByte_of_stored hr hd, ← appendPair_eq_storeDecoder]
    exact (if_pos hm).symm
  next hb =>
    split
    next hb' =>
      subst hb'
      have hd : decodeStep SUB_ESC s.openF s.escf s.buf = .ok s.openF false (s.buf ++ [ESC]) none := by
        rw [ho, hx]; rfl
      rw [execRxByte_of_stored hr hd, ← appendPair_eq_storeDecoder]
      exact (if_pos hm).symm
    next hb' =>
      have hd : decodeStep b s.openF s.escf s.buf = .err .invalidEscape := by simp [decodeStep, ho, hx, hb, hb']
      exact (execRxByte_of_error hr hd).trans (if_pos ⟨hm, hb, hb'⟩).symm

/-- `decode_step` inside RX.BYTE and the decode table give the same step (40_decoder R99, 30_encoding R74). -/
theorem execRxByte_eq_exec_decodeRx {m : Mode} {b : Byte} {s : State} (hm : s.mode = m) (hr : s.canRead = true)
    (hf : fits s.cfg.frameMax s.buf.length = true) : execRxByte b s = exec (decodeRx m b) s := by
  subst hm
  cases ho : s.openF with
  | false => rw [mode_idle ho]; exact execRxByte_idle hr ho
  | true =>
    cases hx : s.escf with
    | false => rw [mode_body ho hx]; exact execRxByte_body hr ho hx hf
    | true => rw [mode_escape ho hx]; exact execRxByte_escape hr ho hx

/-! ### The step of a placed byte -/

@[simp] theorem enterMode_mode (m : Mode) (s : State) : (s.enterMode m).mode = m := by
  cases m <;> rfl

@[simp] theorem placeByte_mode (m : Mode) (b : Byte) (s : State) : (s.placeByte m b).mode = m := enterMode_mode m s

@[simp] theorem placeByte_canRead (m : Mode) (b : Byte) (s : State) : (s.placeByte m b).canRead = true := rfl

/-- The next step takes the placed byte and executes what it selects in the mode it is placed in. -/
theorem step_placeByte {m : Mode} {b : Byte} {s : State} (hw : withinLimits (s.placeByte m b)) :
    step (s.placeByte m b) =
      exec (decodeRx m b) { s.placeByte m b with turns := s.turns, rxIn := s.rxIn } := by
  have hr := placeByte_canRead m b s
  have htaken := step_engine (s := s.placeByte m b) (a := .byte b) (ts := s.turns) (as := s.rxIn) rfl rfl hr
  exact htaken.trans (execRxByte_eq_exec_decodeRx (placeByte_mode m b s) hr hw.1)

/-! ### The obligations -/

/-- Settles O4: an operation is decoded from its cell, and each cell's operation has the cell's input. -/
theorem decodeAndEncodeAreInverse : Obligations.DecodeAndEncodeAreInverse :=
  ⟨fun _ => decode_encode, decode_wellFormed_encode⟩

/-- Settles O37: a word of eight bits is placed in the mode it is decoded in. -/
theorem placedWordIsRunNext : Obligations.PlacedWordIsRunNext := by
  intro s w i hw hi
  obtain rfl : decodeRx (tableMode (BitVec.ofNat 8 w)) (BitVec.ofNat 8 w) = i := Option.some.inj hi
  exact step_placeByte hw

/-- Settles O3, by evaluating the tables on each input. -/
theorem tabledWordsSelectTheirRows : Obligations.TabledWordsSelectTheirRows :=
  ⟨rfl, rfl, rfl, rfl, rfl, rfl, rfl, rfl, rfl, rfl, rfl, rfl, rfl, rfl, rfl, rfl⟩

/-- Settles O5: the illegal bytes of a mode are all but the legal ones, one in IDLE and two in ESCAPE. -/
theorem illegalEncodingsArePerMode : Obligations.IllegalEncodingsArePerMode := by
  refine ⟨fun _ => decodeRx_idle_eq_dJunk, fun _ => decodeRx_escape_eq_dBadesc, decodeRx_body_legal, ?_, ?_⟩
  · simpa [decodeRx_idle_eq_dJunk] using countP_notMem_of_nodup (l := [DELIM]) (by decide)
  · simpa [decodeRx_escape_eq_dBadesc] using countP_notMem_of_nodup (l := [SUB_DELIM, SUB_ESC]) (by decide)

/-- Settles O19: the selected operation emits the escape of its byte. -/
theorem everyPayloadByteIsEncoded : Obligations.EveryPayloadByteIsEncoded := fun _ b h => exec_decodeTx h b

end Sys2Proof.Machine

/-!
PROOFS. The decoder (40_decoder): what a stream does to it, and so the round trip, frames among noise and well-formed
wire frames; the eight operations, each with its condition, their modes and what they depend on; a run of the engine.
-/

namespace Sys2Proof.Machine

/-! ### `decode_step` inside `feed` -/

theorem feed_cons_of_stored {d : Regs} {b : Byte} {o x : Bool} {u : List Byte} (q : List Frame) (e : List Report)
    (bs : List Byte) (h : decodeStep b d.1 d.2.1 d.2.2 = .ok o x u none) :
    feed d q e (b :: bs) = feed (o, x, u) q e bs := by
  simp only [feed, h]

theorem feed_cons_of_completed {d : Regs} {b : Byte} {o x : Bool} {u : List Byte} {f : Frame} (q : List Frame)
    (e : List Report) (bs : List Byte) (h : decodeStep b d.1 d.2.1 d.2.2 = .ok o x u (some f)) :
    feed d q e (b :: bs) = feed (o, x, u) (q ++ [f]) e bs := by
  simp only [feed, h]

theorem feed_cons_of_error {d : Regs} {b : Byte} {k : Report} (q : List Frame) (e : List Report) (bs : List Byte)
    (h : decodeStep b d.1 d.2.1 d.2.2 = .err k) : feed d q e (b :: bs) = feed Regs.start q (e ++ [k]) bs := by
  simp only [feed, h]; rfl

theorem decodeStep_noise {b : Byte} (hb : b ≠ DELIM) (x : Bool) (u : List Byte) :
    decodeStep b false x u = .err .unexpectedByte := by
  simp [decodeStep, hb]

/-! ### What the parts of a stream do -/

/-- Between frames a delimiter opens a frame (40_decoder R91). -/
theorem feed_open (x : Bool) (u : List Byte) (q : List Frame) (e : List Report) (bs : List Byte) :
    feed (false, x, u) q e (DELIM :: bs) = feed (true, false, [DELIM]) q e bs :=
  feed_cons_of_stored q e bs rfl

/-- In mode BODY a delimiter completes the frame (40_decoder R94). -/
theorem feed_close (u : List Byte) (q : List Frame) (e : List Report) (bs : List Byte) :
    feed (true, false, u) q e (DELIM :: bs) = feed Regs.start (q ++ [u ++ [DELIM]]) e bs :=
  feed_cons_of_completed q e bs rfl

/-- In mode BODY an escape pair, of two operations, appends the value it stands for (40_decoder R93, R96, R97). -/
theorem feed_escapePair {b v : Byte} {u : List Byte} (q : List Frame) (e : List Report) (bs : List Byte)
    (h : decodeStep b true true u = .ok true false (u ++ [v]) none) :
    feed (true, false, u) q e (ESC :: b :: bs) = feed (true, false, u ++ [v]) q e bs :=
  (feed_cons_of_stored q e (b :: bs) rfl).trans (feed_cons_of_stored q e bs h)

/-- In mode BODY the escape of a payload byte appends that byte (41_encoder R121). -/
theorem feed_escapeByte (b : Byte) (u : List Byte) (q : List Frame) (e : List Report) (bs : List Byte) :
    feed (true, false, u) q e (escapeByte b ++ bs) = feed (true, false, u ++ [b]) q e bs := by
  unfold escapeByte
  split
  next hb => subst hb; exact feed_escapePair q e bs rfl
  next hd =>
    split
    next hb => subst hb; exact feed_escapePair q e bs rfl
    next he => exact feed_cons_of_stored q e bs (decodeStep_literal hd he)

theorem escapeBody_cons (b : Byte) (p : List Byte) : escapeBody (b :: p) = escapeByte b ++ escapeBody p :=
  List.flatMap_cons

/-- In mode BODY an escaped payload appends the payload. -/
theorem feed_escapeBody (p u : List Byte) (q : List Frame) (e : List Report) (bs : List Byte) :
    feed (true, false, u) q e (escapeBody p ++ bs) = feed (true, false, u ++ p) q e bs := by
  induction p generalizing u with
  | nil => simp [escapeBody]
  | cons b p ih => rw [escapeBody_cons, List.append_assoc, feed_escapeByte, ih, List.append_cons u b p]

/-- In mode IDLE an encoded payload delivers its frame, and the decoder is in mode IDLE again (40_decoder R104). -/
theorem feed_encodePayload (p : List Byte) (q : List Frame) (e : List Report) (bs : List Byte) :
    feed Regs.start q e (encodePayload p ++ bs) = feed Regs.start (q ++ [frameOf p]) e bs :=
  calc feed Regs.start q e (encodePayload p ++ bs)
      _ = feed (true, false, [DELIM]) q e (escapeBody p ++ DELIM :: bs) := by
        rw [encodePayload, List.cons_append, List.append_assoc]; exact feed_open ..
      _ = feed (true, false, DELIM :: p) q e (DELIM :: bs) := feed_escapeBody ..
      _ = feed Regs.start (q ++ [frameOf p]) e bs := feed_close ..

/-- In mode IDLE each byte of noise is one error and leaves the mode (40_decoder R92). -/
theorem feed_noise {n : List Byte} (hn : DELIM ∉ n) (q : List Frame) (e : List Report) (bs : List Byte) :
    feed Regs.start q e (n ++ bs) = feed Regs.start q (e ++ List.replicate n.length .unexpectedByte) bs := by
  induction n generalizing e with
  | nil => simp
  | cons b n ih =>
    obtain ⟨hb, hn⟩ : DELIM ≠ b ∧ DELIM ∉ n := by simpa using hn
    rw [List.cons_append, feed_cons_of_error q e _ (decodeStep_noise (Ne.symm hb) _ _), ih hn, List.append_assoc]
    rfl

/-- Encoded payloads, each with noise after it, deliver their frames in order and one error per byte of noise
(40_decoder R105). -/
theorem feed_frames_among_noise {l : List (List Byte × List Byte)} (hl : ∀ x ∈ l, DELIM ∉ x.2) (q : List Frame)
    (e : List Report) :
    feed Regs.start q e (l.flatMap fun x => encodePayload x.1 ++ x.2) =
      (Regs.start, q ++ l.map (fun x => frameOf x.1),
        e ++ List.replicate (l.map (fun x => x.2.length)).sum .unexpectedByte) := by
  induction l generalizing q e with
  | nil => simp [feed]
  | cons x l ih =>
    obtain ⟨hx, hl⟩ := List.forall_mem_cons.mp hl
    rw [List.flatMap_cons, List.append_assoc, feed_encodePayload, feed_noise hx, ih hl,
      List.append_assoc, List.append_assoc, List.replicate_append_replicate]
    rfl

/-! ### Well-formed wire frames -/

/-- Unescaping takes a byte that starts no escape sequence as it is (40_decoder R107). -/
theorem unescapeBody_literal {b : Byte} (hb : b ≠ ESC) (w : List Byte) :
    unescapeBody (b :: w) = b :: unescapeBody w := by
  cases w with
  | nil => rfl
  | cons c w => simp [unescapeBody, hb]

theorem unescapeBody_escapeByte (b : Byte) (w : List Byte) :
    unescapeBody (escapeByte b ++ w) = b :: unescapeBody w := by
  unfold escapeByte
  split
  next hb => subst hb; rfl
  next =>
    split
    next hb => subst hb; rfl
    next he => exact unescapeBody_literal he w

/-- Unescaping inverts escaping (40_decoder R107). -/
theorem unescapeBody_escapeBody (p : List Byte) : unescapeBody (escapeBody p) = p := by
  induction p with
  | nil => rfl
  | cons b p ih => rw [escapeBody_cons, unescapeBody_escapeByte, ih]

theorem escapeByte_literal {b : Byte} (hd : b ≠ DELIM) (he : b ≠ ESC) : escapeByte b = [b] := by
  simp [escapeByte, hd, he]

/-- In a well-formed body the escape byte starts a pair, which DC or DD completes (30_encoding R80). -/
theorem wellFormedBody_escapePair {c : Byte} {w : List Byte} :
    wellFormedBody (ESC :: c :: w) = true ↔ (c = SUB_DELIM ∨ c = SUB_ESC) ∧ wellFormedBody w = true := by
  simp [wellFormedBody]

/-- A well-formed body is a payload escaped: the one it unescapes to (40_decoder R107). -/
theorem escapeBody_unescapeBody {w : List Byte} (h : wellFormedBody w = true) : escapeBody (unescapeBody w) = w := by
  induction w using wellFormedBody.induct with
  | case1 => rfl
  | case2 b =>
    have hb : b ≠ DELIM ∧ b ≠ ESC := by simpa [wellFormedBody] using h
    exact (escapeBody_cons b []).trans (by rw [escapeByte_literal hb.1 hb.2]; rfl)
  | case3 c w ih =>
    obtain ⟨rfl | rfl, hw⟩ := wellFormedBody_escapePair.mp h
    · exact (escapeBody_cons DELIM _).trans (congrArg ([ESC, SUB_DELIM] ++ ·) (ih hw))
    · exact (escapeBody_cons ESC _).trans (congrArg ([ESC, SUB_ESC] ++ ·) (ih hw))
  | case4 b c w he ih =>
    have hb : b ≠ DELIM ∧ wellFormedBody (c :: w) = true := by simpa [wellFormedBody, he] using h
    rw [unescapeBody_literal he, escapeBody_cons, escapeByte_literal hb.1 he, ih hb.2]
    rfl

/-! ### The operation that the mode and the byte select -/

theorem execDOpen_of_idle {s : State} (hm : s.mode = .idle) : execDOpen s = openFrame s := if_pos hm

theorem execDJunk_of_idle {b : Byte} {s : State} (hm : s.mode = .idle) (hb : b ≠ DELIM) :
    execDJunk b s = framingError .unexpectedByte b s :=
  if_pos ⟨hm, hb⟩

theorem execDEsc_of_body {s : State} (hm : s.mode = .body) : execDEsc s = .next (s.setEscf true) := if_pos hm

theorem execDClose_of_body {s : State} (hm : s.mode = .body) :
    execDClose s = fqPush (s.buf ++ [DELIM]) s.clearDecoder :=
  (if_pos hm).trans (fqPush_clearDecoder_comm _ s)

theorem execDLit_of_body {b : Byte} {s : State} (hm : s.mode = .body) (hd : b ≠ DELIM) (he : b ≠ ESC) :
    execDLit b s = storeDecoder s.openF s.escf (s.buf ++ [b]) s :=
  (if_pos ⟨hm, hd, he⟩).trans (bufAppend_eq_storeDecoder b s)

theorem execDXdelim_of_escape {s : State} (hm : s.mode = .escape) :
    execDXdelim s = storeDecoder s.openF false (s.buf ++ [DELIM]) s :=
  (if_pos hm).trans (appendPair_eq_storeDecoder DELIM s)

theorem execDXesc_of_escape {s : State} (hm : s.mode = .escape) :
    execDXesc s = storeDecoder s.openF false (s.buf ++ [ESC]) s :=
  (if_pos hm).trans (appendPair_eq_storeDecoder ESC s)

theorem execDBadesc_of_escape {b : Byte} {s : State} (hm : s.mode = .escape) (hd : b ≠ SUB_DELIM) (he : b ≠ SUB_ESC) :
    execDBadesc b s = framingError .invalidEscape b s :=
  if_pos ⟨hm, hd, he⟩

/-- The operation of a cell has no step in another mode (40_decoder R90). -/
theorem exec_decodeRx_of_ne {m : Mode} {s : State} (hm : s.mode ≠ m) (b : Byte) :
    exec (decodeRx m b) s = .refused .notSelected := by
  cases m with
  | idle =>
    rw [decodeRx_idle]
    split
    · exact if_neg hm
    · exact if_neg fun h => hm h.1
  | body =>
    rw [decodeRx_body]
    split <;> [skip; split]
    · exact if_neg hm
    · exact if_neg hm
    · exact if_neg fun h => hm h.1
  | escape =>
    rw [decodeRx_escape]
    split <;> [skip; split]
    · exact if_neg hm
    · exact if_neg hm
    · exact if_neg fun h => hm h.1

/-- A buffer with one more byte, where it fits. -/
theorem storeDecoder_append {o x : Bool} {b : Byte} {s : State} (hf : fits s.cfg.frameMax (s.buf.length + 1) = true) :
    storeDecoder o x (s.buf ++ [b]) s = .next (s.setDecoder o x (s.buf ++ [b])) :=
  storeDecoder_of_fits (by simpa using hf)

/-- An offender other than the delimiter is consumed whatever the parameter (60_exceptions R163, 93 U7). -/
theorem framingError_of_ne_delim {k : Report} {b : Byte} {s : State} (hb : b ≠ DELIM) :
    framingError k b s = .next (s.report k).clearDecoder := by
  simp [framingError, hb]

/-- An offending delimiter that is re-examined opens a frame (93 U7; log 9). -/
theorem framingError_reexamined {k : Report} {s : State} (hr : s.cfg.reexamineOffender = true)
    (hf : fits s.cfg.frameMax 1 = true) :
    framingError k DELIM s = .next ((s.report k).setDecoder true false [DELIM]) :=
  (if_pos (by simp [hr])).trans (storeDecoder_of_fits (s := (s.report k).clearDecoder) hf)

/-- C.FLUSH of an engine that exists (42_receiver R139). -/
theorem execCFlush_of_ne_absent {s : State} (hl : s.life ≠ .absent) :
    execCFlush s =
      .next (channelClear { (if s.cfg.flushClearsDecoder then s.clearDecoder else s) with fq := [] }) := by
  unfold execCFlush
  split
  next ha => exact absurd ha hl
  all_goals rfl

/-! ### What a decoder operation reads and writes -/

/-- The state `t` with what the decoder operations write taken from `s`: the decoder registers, FQ and ELOG. -/
def State.takeDecoder (t s : State) : State :=
  { t with openF := s.openF, escf := s.escf, buf := s.buf, fq := s.fq, elog := s.elog }

theorem takeDecoder_of_agree {s t : State} (ho : s.openF = t.openF) (hx : s.escf = t.escf) (hb : s.buf = t.buf)
    (hq : s.fq = t.fq) (he : s.elog = t.elog) : t.takeDecoder s = t := by
  simp [State.takeDecoder, ho, hx, hb, hq, he]

/-- An answer with its next state, where there is one, replaced. -/
def onNext (g : State → State) : Result → Result
  | .next s => .next (g s)
  | .fault e => .fault e
  | .refused e => .refused e

/-- `f` answers for `t` with the decoder of `s` what it answers for `s`, the rest of `t` unchanged. -/
def DecoderOnly (f : State → Result) : Prop :=
  ∀ s t : State, t.cfg = s.cfg → f (t.takeDecoder s) = onNext t.takeDecoder (f s)

theorem storeDecoder_takeDecoder {s t : State} (hc : t.cfg = s.cfg) (o x : Bool) (u : List Byte) :
    storeDecoder o x u (t.takeDecoder s) = onNext t.takeDecoder (storeDecoder o x u s) := by
  have hc : (t.takeDecoder s).cfg = s.cfg := hc
  unfold storeDecoder
  rw [hc]
  split <;> rfl

theorem fqPush_takeDecoder {s t : State} (hc : t.cfg = s.cfg) (f : Frame) :
    fqPush f (t.takeDecoder s) = onNext t.takeDecoder (fqPush f s) := by
  have hc : (t.takeDecoder s).cfg = s.cfg := hc
  have hq : (t.takeDecoder s).fq = s.fq := rfl
  unfold fqPush
  rw [hc, hq]
  split <;> rfl

theorem framingError_takeDecoder {s t : State} (hc : t.cfg = s.cfg) (k : Report) (b : Byte) :
    framingError k b (t.takeDecoder s) = onNext t.takeDecoder (framingError k b s) := by
  have hc' : (t.takeDecoder s).cfg = s.cfg := hc
  unfold framingError
  rw [hc']
  split
  · exact storeDecoder_takeDecoder (s := (s.report k).clearDecoder) hc ..
  · rfl

/-- What is `DecoderOnly` in the form it takes in one mode, is so in that mode: `takeDecoder` keeps the mode. -/
theorem DecoderOnly.of_eq_in_mode {f g : State → Result} {m : Mode}
    (hfg : ∀ s : State, s.mode = m → f s = g s) (hg : DecoderOnly g) {s t : State} (hm : s.mode = m)
    (hc : t.cfg = s.cfg) : f (t.takeDecoder s) = onNext t.takeDecoder (f s) := by
  rw [hfg s hm, ← hg s t hc]
  exact hfg (t.takeDecoder s) hm

/-- The operation of a cell is refused, or writes ESCF, or is one of the three primitives on the decoder. -/
theorem exec_decodeRx_decoderOnly (m : Mode) (b : Byte) : DecoderOnly (exec (decodeRx m b)) := by
  intro s t hc
  by_cases hm : s.mode = m
  · cases m with
    | idle =>
      rw [decodeRx_idle]
      split
      · exact DecoderOnly.of_eq_in_mode (fun _ => execDOpen_of_idle) (fun _ _ h => storeDecoder_takeDecoder h ..) hm hc
      next hb =>
        exact DecoderOnly.of_eq_in_mode (fun _ hm => execDJunk_of_idle hm hb)
          (fun _ _ h => framingError_takeDecoder h ..) hm hc
    | body =>
      rw [decodeRx_body]
      split
      · exact DecoderOnly.of_eq_in_mode (fun _ => execDEsc_of_body) (fun _ _ _ => rfl) hm hc
      next he =>
        split
        · exact DecoderOnly.of_eq_in_mode (fun _ => execDClose_of_body)
            (fun s _ h => fqPush_takeDecoder (s := s.clearDecoder) h _) hm hc
        next hd =>
          exact DecoderOnly.of_eq_in_mode (fun _ hm => execDLit_of_body hm hd he)
            (fun _ _ h => storeDecoder_takeDecoder h ..) hm hc
    | escape =>
      rw [decodeRx_escape]
      split
      · exact DecoderOnly.of_eq_in_mode (fun _ => execDXdelim_of_escape)
          (fun _ _ h => storeDecoder_takeDecoder h ..) hm hc
      next hd =>
        split
        · exact DecoderOnly.of_eq_in_mode (fun _ => execDXesc_of_escape)
            (fun _ _ h => storeDecoder_takeDecoder h ..) hm hc
        next he =>
          exact DecoderOnly.of_eq_in_mode (fun _ hm => execDBadesc_of_escape hm hd he)
            (fun _ _ h => framingError_takeDecoder h ..) hm hc
  · have hm' : (t.takeDecoder s).mode ≠ m := hm
    rw [exec_decodeRx_of_ne hm, exec_decodeRx_of_ne hm']
    rfl

/-! ### RX.BYTE is one byte of `feed` -/

/-- The state with the registers, FQ and ELOG that `feed` gives. -/
def State.setFed (r : Regs × List Frame × List Report) (s : State) : State :=
  { s with openF := r.1.1, escf := r.1.2.1, buf := r.1.2.2, fq := r.2.1, elog := r.2.2 }

/-- With the spec's parameters RX.BYTE does what `feed` says of its byte (40_decoder R102, 42_receiver R131). -/
theorem execRxByte_eq_feed {s : State} (hr : s.canRead = true) (hc : defaultCfg s) (b : Byte) :
    execRxByte b s = .next (s.setFed (feed s.regs s.fq s.elog [b])) := by
  have hfits (n : Nat) : fits s.cfg.frameMax n = true ∧ fits s.cfg.fqDepth n = true := by rw [hc]; exact ⟨rfl, rfl⟩
  rcases hd : decodeStep b s.openF s.escf s.buf with ⟨o, x, u, _ | f⟩ | k
  · rw [execRxByte_of_stored hr hd, storeDecoder_of_fits (hfits _).1, feed_cons_of_stored (d := s.regs) _ _ _ hd]
    rfl
  · rw [execRxByte_of_completed hr hd, storeDecoder_of_fits (hfits _).1, andThen_next,
      feed_cons_of_completed (d := s.regs) _ _ _ hd]
    exact if_pos (hfits _).2
  · rw [execRxByte_of_error hr hd, framingError_consumed (by rw [hc]; rfl), feed_cons_of_error (d := s.regs) _ _ _ hd]
    rfl

/-- A turn of the engine with a byte oldest in the channel is one byte of `feed`. -/
theorem step_engine_eq_feed {s : State} {b : Byte} {as : List Answer} {ts : List Turn} (hr : s.canRead = true)
    (hc : defaultCfg s) (hrx : s.rxIn = .byte b :: as) (ht : s.turns = .engine :: ts) :
    step s = .next ({ s with rxIn := as, turns := ts }.setFed (feed s.regs s.fq s.elog [b])) :=
  (step_engine ht hrx hr).trans (execRxByte_eq_feed (s := { s with rxIn := as, turns := ts }) hr hc b)

/-- As many turns of the engine as there are bytes: the run is the `feed` of the bytes (40_decoder R102). -/
theorem runSteps_eq_feed {bs : List Byte} {s : State} {as : List Answer} {ts : List Turn} (hr : s.canRead = true)
    (hc : defaultCfg s) (hrx : s.rxIn = bs.map .byte ++ as) (ht : s.turns = List.replicate bs.length .engine ++ ts) :
    runSteps bs.length s =
      .next ({ s with rxIn := as, turns := ts }.setFed (feed s.regs s.fq s.elog bs)) := by
  induction bs generalizing s with
  | nil =>
    obtain rfl : s.rxIn = as := hrx
    obtain rfl : s.turns = ts := ht
    rfl
  | cons b bs ih =>
    have hfeed : feed s.regs s.fq s.elog (b :: bs) = _ := feed_append s.regs s.fq s.elog [b] bs
    rw [List.length_cons, runSteps_succ_of_step (step_engine_eq_feed hr hc hrx ht), hfeed]
    exact ih (s := State.setFed _ { s with rxIn := _, turns := _ }) hr hc rfl rfl

/-! ### The obligations -/

/-- Settles O50: an encoded payload with nothing after it. -/
theorem roundTrip : Obligations.RoundTrip := by
  intro p q e
  have h := feed_encodePayload p q e []
  rwa [List.append_nil] at h

/-- Settles O51: the noise before, and then each frame with the noise after it. -/
theorem framesAmongNoise : Obligations.FramesAmongNoise := by
  intro n0 l h0 hl bs
  have h : feed Regs.start [] [] bs = _ := (feed_noise h0 [] [] _).trans (feed_frames_among_noise hl _ _)
  rw [framesOf, reportsOf, h, List.replicate_add]
  exact ⟨rfl, rfl, rfl⟩

/-- Settles O52: a well-formed body is the escaping of what it unescapes to, so its wire frame is an encoded payload. -/
theorem wellFormedWireFramesDecode : Obligations.WellFormedWireFramesDecode := by
  refine ⟨fun w q e hw => ?_, unescapeBody_escapeBody, fun w hw => (escapeBody_unescapeBody hw).symm⟩
  have h := roundTrip (unescapeBody w) q e
  rwa [encodePayload, escapeBody_unescapeBody hw] at h

/-- Settles O14, operation by operation, from what each leaves of the decoder registers. -/
theorem modeTransitionsOfTheDecoder : Obligations.ModeTransitionsOfTheDecoder := by
  intro i s t hr h
  cases i with
  | dOpen => obtain ⟨hm, -, rfl⟩ := execDOpen_next h; exact ⟨hm, rfl⟩
  | dJunk b => obtain ⟨hm, -, rfl⟩ := execDJunk_next h; exact ⟨hm, rfl⟩
  | dEsc => obtain ⟨hm, rfl⟩ := execDEsc_next h; exact ⟨hm, mode_escape (openF_of_mode (s := s) hm nofun) rfl⟩
  | dClose => obtain ⟨hm, -, rfl⟩ := execDClose_next h; exact ⟨hm, rfl⟩
  | dLit b => obtain ⟨hm, -, -, -, rfl⟩ := execDLit_next h; exact ⟨hm, hm⟩
  | dXdelim => obtain ⟨hm, -, rfl⟩ := execDXdelim_next h; exact ⟨hm, mode_body (openF_of_mode (s := s) hm nofun) rfl⟩
  | dXesc => obtain ⟨hm, -, rfl⟩ := execDXesc_next h; exact ⟨hm, mode_body (openF_of_mode (s := s) hm nofun) rfl⟩
  | dBadesc b =>
    obtain ⟨hm, -, -, rfl | ⟨hr', -⟩⟩ := execDBadesc_next h
    · exact ⟨hm, rfl⟩
    · simp [hr] at hr'
  | eStart | eXdelim | eXesc | eLit | eEnd | rxByte | rxIdle | rxIoerr | rxStopack | cStart | cStopreq | cJoin | cDrop
  | cFlush | qPop => trivial

/-- Settles O16: the frame is the dependence of the state on its own decoder, the rest that of the other state. -/
theorem decoderOperationsDependOnTheDecoderOnly : Obligations.DecoderOperationsDependOnTheDecoderOnly := by
  intro m b s t ho hx hb hq he hc
  have hs := exec_decodeRx_decoderOnly m b s s rfl
  have ht := exec_decodeRx_decoderOnly m b s t hc.symm
  rw [takeDecoder_of_agree rfl rfl rfl rfl rfl] at hs
  rw [takeDecoder_of_agree ho hx hb hq he] at ht
  refine ⟨fun s' h => ⟨?_, by rw [ht, h]; rfl⟩, fun r h => by rw [ht, h]; rfl⟩
  rw [h] at hs
  exact Host.Outcome.next.inj hs

/-- Settles O22: RX.BYTE executes the operation of the cell. -/
theorem stepFunctionAndDecodeTableAgree : Obligations.StepFunctionAndDecodeTableAgree := fun _ _ hr hw =>
  execRxByte_eq_exec_decodeRx rfl hr hw.1

/-- Settles O40: each effect keeps I1, I2 and the frames. -/
theorem everyOperationKeepsTheDecoderInvariant : Obligations.EveryOperationKeepsTheDecoderInvariant :=
  fun _ _ _ hd hf h => ⟨(exec_effect h).keeps_decoderInv hd, (exec_effect h).keeps_framesInv hd hf⟩

/-- Settles O44, by induction on the bytes: each turn of the engine is one byte of `feed`. -/
theorem engineRunIsFeed : Obligations.EngineRunIsFeed := fun _ _ _ _ hl hp hc hrx ht =>
  runSteps_eq_feed (canRead_iff.mpr ⟨hl, hp⟩) hc hrx ht

/-- Settles O6: in mode IDLE D.OPEN stores the registers of a frame just opened. -/
theorem openStoresTheDelimiter : Obligations.OpenStoresTheDelimiter := fun _ ho hf =>
  (execDOpen_of_idle (mode_idle ho)).trans (storeDecoder_of_fits hf)

/-- Settles O7: in mode IDLE D.JUNK takes the error, and its byte is not the delimiter. -/
theorem junkReportsUnexpectedByte : Obligations.JunkReportsUnexpectedByte := fun _ _ ho hb =>
  (execDJunk_of_idle (mode_idle ho) hb).trans (framingError_of_ne_delim hb)

/-- Settles O8: in mode BODY D.ESC only writes the flag. -/
theorem escapePrefixSetsTheFlag : Obligations.EscapePrefixSetsTheFlag := fun _ ho hx =>
  execDEsc_of_body (mode_body ho hx)

/-- Settles O9: in mode BODY D.CLOSE pushes the frame, which fits. -/
theorem closePushesTheFrame : Obligations.ClosePushesTheFrame := fun s ho hx hq =>
  (execDClose_of_body (mode_body ho hx)).trans (fqPush_eq_next (s := s.clearDecoder).mpr ⟨hq, rfl⟩)

/-- Settles O10: in mode BODY D.LIT stores the longer buffer, which fits. -/
theorem literalIsAppended : Obligations.LiteralIsAppended := fun _ _ ho hx hd he hf =>
  (execDLit_of_body (mode_body ho hx) hd he).trans (storeDecoder_append hf)

/-- Settles O11: in mode ESCAPE both operations store the longer buffer, which fits, and clear ESCF. -/
theorem escapePairsAppendTheirValue : Obligations.EscapePairsAppendTheirValue := by
  intro s ho hx hf
  have hm := mode_escape ho hx
  exact ⟨(execDXdelim_of_escape hm).trans (storeDecoder_append hf),
    (execDXesc_of_escape hm).trans (storeDecoder_append hf)⟩

/-- Settles O12: in mode ESCAPE D.BADESC takes the error, and the offender is consumed. -/
theorem badEscapeAbandonsTheFrame : Obligations.BadEscapeAbandonsTheFrame := fun _ _ ho hx hd he hr =>
  (execDBadesc_of_escape (mode_escape ho hx) hd he).trans (framingError_consumed hr)

/-- Settles O13: each operation of a row of the decode table tests the row's mode. -/
theorem unselectedDecoderOperationHasNoStep : Obligations.UnselectedDecoderOperationHasNoStep := fun _ b _ hm =>
  exec_decodeRx_of_ne hm.symm b

/-- Settles O28: the re-examined delimiter opens a frame; the narrow flush only empties FQ and asks for the clear. -/
theorem parametersOffTheirDefault : Obligations.ParametersOffTheirDefault := by
  refine ⟨fun s ho hx hr hf => ?_, fun s hl hc =>
    ⟨Config.freeDiscard s.draws, s.draws + 1, (execCFlush_of_ne_absent hl).trans ?_⟩⟩
  · have hm := mode_escape ho hx
    exact ⟨(execDBadesc_of_escape hm DELIM_ne_SUB_DELIM DELIM_ne_SUB_ESC).trans (framingError_reexamined hr hf),
      fun b hb hd he => (execDBadesc_of_escape hm hd he).trans (framingError_of_ne_delim hb)⟩
  · rw [hc]
    rfl

end Sys2Proof.Machine

/-!
PROOFS. The encoder (41_encoder): what an event of its port emits, said once as the relation `Emits`; the output a
sequence of encoded payloads at every step; a whole payload's run; the language, the length and the injectivity of
`encode`.
-/

namespace Sys2Proof.Machine

/-! ### The encoder operations out of sequence -/

theorem execEXdelim_of_closed {s : State} (h : s.txOpen = false) : execEXdelim s = .refused .encoderOutOfSequence := by
  simp [execEXdelim, h]

theorem execEXesc_of_closed {s : State} (h : s.txOpen = false) : execEXesc s = .refused .encoderOutOfSequence := by
  simp [execEXesc, h]

theorem execELit_of_closed {b : Byte} {s : State} (h : s.txOpen = false) (hd : b ≠ DELIM) (he : b ≠ ESC) :
    execELit b s = .refused .encoderOutOfSequence := by
  simp [execELit, h, hd, he]

/-- Outside a frame every payload byte is refused (41_encoder R126). -/
theorem exec_decodeTx_of_closed {s : State} (h : s.txOpen = false) (b : Byte) :
    exec (decodeTx b) s = .refused .encoderOutOfSequence := by
  rw [decodeTx_eq]
  split
  · exact execEXdelim_of_closed h
  · split
    · exact execEXesc_of_closed h
    · exact execELit_of_closed h ‹_› ‹_›

/-! ### What an event of the encoder port emits -/

/-- The events of the encoder port, each with the TX_OPEN it asks for, the TX_OPEN it leaves and the bytes it emits
(41_encoder R116 to R121). -/
inductive Emits : CallerEvent → Bool → Bool → List Byte → Prop
  | start : Emits .frameStart false true [DELIM]
  | payload (b : Byte) : Emits (.payload b) true true (escapeByte b)
  | finish : Emits .frameFinish true false [DELIM]

/-- In sequence the event's operation emits its bytes and does nothing else. -/
theorem Emits.exec_of_eq {e : CallerEvent} {o o' : Bool} {w : List Byte} (he : Emits e o o' w) {s : State}
    (h : s.txOpen = o) : exec (decode (.caller e)) s = .next { s with txOpen := o', txOut := s.txOut ++ w } := by
  cases he with
  | start => exact if_neg (by simp [h])
  | payload b => exact (exec_decodeTx h b).trans (by rw [h])
  | finish => exact if_pos h

/-- Out of sequence the event's operation is refused (41_encoder R126). -/
theorem Emits.exec_of_ne {e : CallerEvent} {o o' : Bool} {w : List Byte} (he : Emits e o o' w) {s : State}
    (h : s.txOpen ≠ o) : exec (decode (.caller e)) s = .refused .encoderOutOfSequence := by
  cases he with
  | start => exact if_pos (by simpa using h)
  | payload b => exact exec_decodeTx_of_closed (by simpa using h) b
  | finish => exact if_neg h

/-- An event whose operation has a step was in sequence, and the step is the one in sequence. -/
theorem Emits.exec_next {e : CallerEvent} {o o' : Bool} {w : List Byte} (he : Emits e o o' w) {s t : State}
    (h : exec (decode (.caller e)) s = .next t) :
    s.txOpen = o ∧ t = { s with txOpen := o', txOut := s.txOut ++ w } := by
  by_cases ho : s.txOpen = o
  · rw [he.exec_of_eq ho] at h
    exact ⟨ho, (Host.Outcome.next.inj h).symm⟩
  · rw [he.exec_of_ne ho] at h
    cases h

/-! ### The other operations leave the encoder as it is -/

/-- What every operation but the encoder's leaves of the encoder: all of it (41_encoder R115). -/
structure LeavesEncoder (s t : State) : Prop where
  txOpen : t.txOpen = s.txOpen
  txOut : t.txOut = s.txOut

theorem execRxByte_leavesEncoder {b : Byte} {s t : State} (h : execRxByte b s = .next t) : LeavesEncoder s t := by
  obtain ⟨-, ⟨_, _, _, -, -, rfl⟩ | ⟨_, _, _, _, -, -, -, rfl⟩ | ⟨_, -, he⟩⟩ := execRxByte_next h
  · exact ⟨rfl, rfl⟩
  · exact ⟨rfl, rfl⟩
  · obtain rfl | ⟨-, -, -, rfl⟩ := framingError_eq_next he <;> exact ⟨rfl, rfl⟩

theorem exec_answer_leavesEncoder {a : Answer} {s t : State} (h : exec (decode (.answer a)) s = .next t) :
    LeavesEncoder s t := by
  cases a with
  | byte b => exact execRxByte_leavesEncoder h
  | nodata => obtain ⟨-, rfl⟩ := execRxIdle_next h; exact ⟨rfl, rfl⟩
  | ioerr => obtain ⟨-, rfl⟩ := execRxIoerr_next h; exact ⟨rfl, rfl⟩

/-- An event of the caller is one of the encoder port, or its operation leaves the encoder as it is. -/
theorem exec_caller_emits_or_leavesEncoder {e : CallerEvent} {s t : State}
    (h : exec (decode (.caller e)) s = .next t) : (∃ o o' w, Emits e o o' w) ∨ LeavesEncoder s t := by
  cases e with
  | frameStart => exact .inl ⟨_, _, _, .start⟩
  | payload b => exact .inl ⟨_, _, _, .payload b⟩
  | frameFinish => exact .inl ⟨_, _, _, .finish⟩
  | start => obtain ⟨-, -, rfl⟩ := execCStart_next h; exact .inr ⟨rfl, rfl⟩
  | stopReq => obtain ⟨-, rfl⟩ := execCStopreq_next h; exact .inr ⟨rfl, rfl⟩
  | join => obtain ⟨-, rfl⟩ | ⟨-, rfl⟩ := execCJoin_next h <;> exact .inr ⟨rfl, rfl⟩
  | drop => obtain ⟨-, rfl⟩ | ⟨-, rfl⟩ := execCDrop_next h <;> exact .inr ⟨rfl, rfl⟩
  | flush => obtain ⟨-, ⟨-, rfl⟩ | ⟨-, rfl⟩⟩ := execCFlush_next h <;> exact .inr ⟨rfl, rfl⟩
  | pop => obtain ⟨-, ⟨_, _, -, rfl⟩ | ⟨-, -, rfl⟩ | ⟨-, -, rfl⟩⟩ := execQPop_next h <;> exact .inr ⟨rfl, rfl⟩

/-- What a step does to the encoder: an event of its port emits, or it stays as it is. -/
theorem step_emits_or_leavesEncoder {s s' : State} (h : step s = .next s') :
    (∃ e w, Emits e s.txOpen s'.txOpen w ∧ s'.txOut = s.txOut ++ w) ∨ LeavesEncoder s s' := by
  obtain ⟨x, t, hx, hb, he⟩ | hb := step_cases h
  · suffices (∃ e w, Emits e t.txOpen s'.txOpen w ∧ s'.txOut = t.txOut ++ w) ∨ LeavesEncoder t s' by
      rw [hb.txOpen, hb.txOut] at this
      exact this.imp id fun k => ⟨k.txOpen.trans hb.txOpen, k.txOut.trans hb.txOut⟩
    cases hx with
    | answer a => exact .inr (exec_answer_leavesEncoder he)
    | cancelSeen => obtain ⟨-, rfl⟩ := execRxStopack_next he; exact .inr ⟨rfl, rfl⟩
    | caller e =>
      obtain ⟨o, o', w, hw⟩ | hk := exec_caller_emits_or_leavesEncoder he
      · obtain ⟨rfl, rfl⟩ := hw.exec_next he
        exact .inl ⟨e, w, hw, rfl⟩
      · exact .inr hk
  · exact .inr ⟨hb.txOpen, hb.txOut⟩

/-! ### The output is a sequence of encoded payloads -/

/-- The encoder's invariant, of TX_OPEN and TX_OUT alone. -/
def OutputInv (o : Bool) (out : List Byte) : Prop :=
  ∃ ps : List (List Byte),
    if o then ∃ p, out = ps.flatMap encodePayload ++ DELIM :: escapeBody p else out = ps.flatMap encodePayload

theorem encoderInv_iff {s : State} : encoderInv s ↔ OutputInv s.txOpen s.txOut := Iff.rfl

theorem escapeBody_concat (p : List Byte) (b : Byte) : escapeBody (p ++ [b]) = escapeBody p ++ escapeByte b := by
  simp [escapeBody]

/-- E.START begins an empty payload, a payload byte prolongs the begun one, E.END makes it a whole one. -/
theorem Emits.keeps_outputInv {e : CallerEvent} {o o' : Bool} {w out : List Byte} (he : Emits e o o' w)
    (h : OutputInv o out) : OutputInv o' (out ++ w) := by
  cases he with
  | start =>
    obtain ⟨ps, rfl⟩ := h
    exact ⟨ps, [], rfl⟩
  | payload b =>
    obtain ⟨ps, p, rfl⟩ := h
    exact ⟨ps, p ++ [b], by rw [escapeBody_concat, List.append_assoc, List.cons_append]⟩
  | finish =>
    obtain ⟨ps, p, rfl⟩ := h
    refine ⟨ps ++ [p], ?_⟩
    change _ = (ps ++ [p]).flatMap encodePayload
    rw [List.flatMap_append, List.flatMap_singleton, encodePayload, List.append_assoc, List.cons_append]

/-! ### The run of a whole payload -/

/-- A caller's turn in which its oldest event is one of the encoder port, in sequence. -/
theorem Emits.step_of_eq {e : CallerEvent} {o o' : Bool} {w : List Byte} (he : Emits e o o' w) {s : State}
    {es : List CallerEvent} {ts : List Turn} (h : s.txOpen = o) (hc : s.callerOps = e :: es)
    (ht : s.turns = .caller :: ts) :
    step s = .next { s with txOpen := o', txOut := s.txOut ++ w, callerOps := es, turns := ts } :=
  (step_caller ht hc).trans (he.exec_of_eq (s := { s with turns := ts, callerOps := es }) h)

/-- Inside a frame the caller's turns for the bytes of a payload emit its escaped body (41_encoder R121). -/
theorem runSteps_payload {p : List Byte} {s : State} {es : List CallerEvent} {ts : List Turn} (n : Nat)
    (h : s.txOpen = true) (hc : s.callerOps = p.map .payload ++ es)
    (ht : s.turns = List.replicate p.length .caller ++ ts) :
    runSteps (p.length + n) s =
      runSteps n { s with txOpen := true, txOut := s.txOut ++ escapeBody p, callerOps := es, turns := ts } := by
  induction p generalizing s with
  | nil =>
    obtain rfl : s.callerOps = es := hc
    obtain rfl : s.turns = ts := ht
    simp [escapeBody, ← h]
  | cons b p ih =>
    rw [List.length_cons, Nat.succ_add, runSteps_succ_of_step ((Emits.payload b).step_of_eq h hc ht), escapeBody_cons,
      ← List.append_assoc]
    exact ih rfl rfl rfl

/-! ### The language of `encode` -/

theorem DELIM_notMem_escapeByte (b : Byte) : DELIM ∉ escapeByte b := by
  unfold escapeByte
  split
  · decide
  · split
    · decide
    · simpa using Ne.symm ‹_›

theorem DELIM_notMem_escapeBody (p : List Byte) : DELIM ∉ escapeBody p := by
  simp [escapeBody, DELIM_notMem_escapeByte]

/-- A byte that needs no escaping does not change whether what follows is well formed (30_encoding R80). -/
theorem wellFormedBody_literal {b : Byte} (hd : b ≠ DELIM) (he : b ≠ ESC) (w : List Byte) :
    wellFormedBody (b :: w) = wellFormedBody w := by
  cases w with
  | nil => simp [wellFormedBody, hd, he]
  | cons c w => simp [wellFormedBody, hd, he]

theorem wellFormedBody_escapeByte (b : Byte) (w : List Byte) :
    wellFormedBody (escapeByte b ++ w) = wellFormedBody w := by
  unfold escapeByte
  split
  · rfl
  · split
    · rfl
    · exact wellFormedBody_literal ‹_› ‹_› w

/-- An escaped payload is a well-formed body (41_encoder R123). -/
theorem wellFormedBody_escapeBody (p : List Byte) : wellFormedBody (escapeBody p) = true := by
  induction p with
  | nil => rfl
  | cons b p ih => rw [escapeBody_cons, wellFormedBody_escapeByte, ih]

/-- A payload is read off its wire frame: it is the body unescaped (41_encoder R125). -/
theorem encodePayload_injective : Function.Injective encodePayload := by
  intro p p' h
  have hbody : escapeBody p = escapeBody p' := List.append_cancel_right (List.cons.inj h).2
  exact Function.LeftInverse.injective unescapeBody_escapeBody hbody

/-! ### The length of `encode` -/

theorem length_escapeByte (b : Byte) : (escapeByte b).length = 1 + [b].count DELIM + [b].count ESC := by
  unfold escapeByte
  split
  next hb => subst hb; rfl
  next hd =>
    split
    next hb => subst hb; rfl
    next he => simp [hd, he]

/-- Each byte that needs escaping adds one to the length (41_encoder R124). -/
theorem length_escapeBody (p : List Byte) : (escapeBody p).length = p.length + p.count DELIM + p.count ESC := by
  induction p with
  | nil => rfl
  | cons b p ih =>
    have hcount (a : Byte) : (b :: p).count a = [b].count a + p.count a := List.count_append (l₁ := [b])
    rw [escapeBody_cons, List.length_append, length_escapeByte, ih, hcount, hcount, List.length_cons]
    omega

theorem length_encodePayload (p : List Byte) :
    (encodePayload p).length = p.length + 2 + p.count DELIM + p.count ESC := by
  rw [encodePayload, List.length_cons, List.length_append, length_escapeBody, List.length_singleton]
  omega

/-- The bytes that need escaping, counted together: no byte is both. -/
theorem count_add_count_eq_countP (p : List Byte) :
    p.count DELIM + p.count ESC = p.countP (fun b => b = DELIM ∨ b = ESC) := by
  induction p with
  | nil => rfl
  | cons b p ih =>
    rw [List.count_cons, List.count_cons, List.countP_cons, ← ih]
    by_cases hd : b = DELIM
    · subst hd; simp; omega
    · by_cases he : b = ESC
      · subst he; simp; omega
      · simp [hd, he]

/-! ### The obligations -/

/-- Settles O41: a step that emits keeps the sequence, and any other leaves the output as it is. -/
theorem everyStepKeepsTheOutputWellFormed : Obligations.EveryStepKeepsTheOutputWellFormed := by
  intro s s' hs h
  rw [encoderInv_iff] at hs ⊢
  obtain ⟨e, w, he, hw⟩ | hk := step_emits_or_leavesEncoder h
  · exact hw ▸ he.keeps_outputInv hs
  · rwa [hk.txOpen, hk.txOut]

/-- Settles O20: an event of the encoder port emits bytes that do not depend on the state. -/
theorem encoderTouchesOnlyItsOwnState : Obligations.EncoderTouchesOnlyItsOwnState := by
  intro e s t hport s' h
  obtain ⟨o, o', w, he⟩ : ∃ o o' w, Emits e o o' w := by
    cases e with
    | frameStart => exact ⟨_, _, _, .start⟩
    | payload b => exact ⟨_, _, _, .payload b⟩
    | frameFinish => exact ⟨_, _, _, .finish⟩
    | start | stopReq | join | drop | flush | pop => exact hport.elim
  obtain ⟨rfl, rfl⟩ := he.exec_next h
  exact ⟨rfl, ⟨w, rfl⟩, fun ht => ⟨_, he.exec_of_eq ht, rfl⟩⟩

/-- Settles O45: the turn of E.START, the turns of the payload, the turn of E.END. -/
theorem encodeSequenceEmitsTheEncoding : Obligations.EncodeSequenceEmitsTheEncoding := by
  intro p s es ts ho hc ht
  have hturns : s.turns = .caller :: (List.replicate p.length .caller ++ .caller :: ts) := by
    rw [ht, List.replicate_succ, List.replicate_succ']; simp
  have hops : s.callerOps = .frameStart :: (p.map .payload ++ .frameFinish :: es) := by
    rw [hc, encodeEvents]; simp
  rw [show p.length + 2 = p.length + 1 + 1 from rfl, runSteps_succ_of_step (Emits.start.step_of_eq ho hops hturns),
    runSteps_payload 1 rfl rfl rfl, runSteps_succ_of_step (Emits.finish.step_of_eq rfl rfl rfl), run_zero]
  simp [encodePayload, ho]

/-- Settles O53: the escaped body is well formed and without delimiter; a well-formed body is the escaping of what it
unescapes to, and of no other payload. -/
theorem encodingIsDelimiterFree : Obligations.EncodingIsDelimiterFree := by
  refine ⟨fun p => ⟨rfl, List.getLast?_concat (l := DELIM :: escapeBody p), ?_, wellFormedBody_escapeBody p, rfl⟩,
    fun w hw => ?_⟩
  · rw [encodePayload, List.drop_one, List.tail_cons, List.dropLast_concat]
    exact DELIM_notMem_escapeBody p
  · have henc : encodePayload (unescapeBody w) = DELIM :: (w ++ [DELIM]) := by
      rw [encodePayload, escapeBody_unescapeBody hw]
    exact ⟨unescapeBody w, henc, fun p' hp' => encodePayload_injective (hp'.trans henc.symm)⟩

/-- Settles O54: the bounds are those of the number of bytes that need escaping, none and all of them. -/
theorem encodedLength : Obligations.EncodedLength := by
  intro p
  have hlen := length_encodePayload p
  have hsum := count_add_count_eq_countP p
  have hle := List.countP_le_length (p := fun b : Byte => decide (b = DELIM ∨ b = ESC)) (l := p)
  refine ⟨hlen, by omega, by omega, ?_, ?_⟩
  · rw [← List.count_eq_zero (a := DELIM), ← List.count_eq_zero (a := ESC)]
    omega
  · have hall := List.countP_eq_length (p := fun b : Byte => decide (b = DELIM ∨ b = ESC)) (l := p)
    simp only [decide_eq_true_eq] at hall
    rw [← hall]
    omega

/-- Settles O55: a payload is read off its wire frame. -/
theorem encodingIsInjective : Obligations.EncodingIsInjective := fun _ _ h => encodePayload_injective h

/-- Settles O17, each operation in sequence. -/
theorem encoderOperationsEmit : Obligations.EncoderOperationsEmit :=
  ⟨fun _ h => Emits.start.exec_of_eq h, fun _ h =>
    ⟨execEXdelim_of_txOpen h, execEXesc_of_txOpen h, fun _ => execELit_of_txOpen h, Emits.finish.exec_of_eq h⟩⟩

/-- Settles O18, each operation out of sequence. -/
theorem misSequencedEncoderIsRefused : Obligations.MisSequencedEncoderIsRefused :=
  ⟨fun _ h => Emits.start.exec_of_ne (by simp [h]), fun _ h =>
    ⟨execEXdelim_of_closed h, execEXesc_of_closed h, fun _ => execELit_of_closed h,
      Emits.finish.exec_of_ne (by simp [h])⟩⟩

end Sys2Proof.Machine

/-!
PROOFS. The receiver (42_receiver): the engine's steps and the caller's operations, each with its condition; which of
them are enabled in which LIFE and what changes LIFE; the runs in which a running engine is dropped and replaced.
-/

namespace Sys2Proof.Machine

/-! ### The engine's steps -/

theorem execRxIdle_of_canRead {s : State} (h : s.canRead = true) : execRxIdle s = .next s := if_pos h

theorem execRxIoerr_of_canRead {s : State} (h : s.canRead = true) : execRxIoerr s = .next (ioErrorEntry s) := if_pos h

theorem execRxStopack_of_canStop {s : State} (h : s.canStop = true) :
    execRxStopack s = .next { s.clearDecoder with life := .stopped } :=
  if_pos h

theorem execRxByte_refused {s : State} (h : s.canRead = false) (b : Byte) :
    execRxByte b s = .refused .engineNotEnabled := by
  simp [execRxByte, h]

theorem execRxIdle_refused {s : State} (h : s.canRead = false) : execRxIdle s = .refused .engineNotEnabled := by
  simp [execRxIdle, h]

theorem execRxIoerr_refused {s : State} (h : s.canRead = false) : execRxIoerr s = .refused .engineNotEnabled := by
  simp [execRxIoerr, h]

theorem execRxStopack_refused {s : State} (h : s.canStop = false) : execRxStopack s = .refused .engineNotEnabled := by
  simp [execRxStopack, h]

/-- The buffer that `decode_step` leaves has at most one byte more (40_decoder R99). -/
theorem decodeStep_length_le {b : Byte} {o x o' x' : Bool} {u u' : List Byte} {c : Option Frame}
    (h : decodeStep b o x u = .ok o' x' u' c) : u'.length ≤ u.length + 1 := by
  unfold decodeStep at h
  split at h
  · split at h <;> cases h
    simp
  · split at h
    · split at h <;> [skip; split at h] <;> cases h <;> simp
    · split at h <;> [skip; split at h] <;> cases h <;> simp

/-- The registers that `decode_step` leaves are stored where one more byte fits (42_receiver R131). -/
theorem storeDecoder_of_decodeStep {b : Byte} {s : State} {o x : Bool} {u : List Byte} {c : Option Frame}
    (hf : fits s.cfg.frameMax (s.buf.length + 1) = true) (hd : decodeStep b s.openF s.escf s.buf = .ok o x u c) :
    storeDecoder o x u s = .next (s.setDecoder o x u) :=
  storeDecoder_of_fits (fits_mono (decodeStep_length_le hd) hf)

/-- The offender of a framing error is consumed where it is not a delimiter that is re-examined (60_exceptions R163). -/
theorem framingError_of_consumed_or_ne_delim {k : Report} {b : Byte} {s : State}
    (h : s.cfg.reexamineOffender = false ∨ b ≠ DELIM) : framingError k b s = .next (s.report k).clearDecoder :=
  h.elim framingError_consumed framingError_of_ne_delim

/-! ### The caller's operations -/

theorem running_or_ended_of_ne_absent {l : Life} (h : l ≠ .absent) :
    l = .running ∨ l = .stopped ∨ l = .terminated := by
  cases l with
  | absent => exact absurd rfl h
  | running => exact .inl rfl
  | stopped => exact .inr (.inl rfl)
  | terminated => exact .inr (.inr rfl)

theorem execCStart_of_absent {s : State} (hl : s.life = .absent) (hp : s.portOwner = .external) :
    execCStart s =
      .next { s.clearDecoder with fq := [], elog := [], cancel := false, portOwner := .block, life := .running } :=
  if_pos ⟨hl, hp⟩

theorem execCStart_refused {s : State} (h : ¬(s.life = .absent ∧ s.portOwner = .external)) :
    execCStart s = .refused .cannotStart :=
  if_neg h

theorem execCStopreq_of_ne_absent {s : State} (h : s.life ≠ .absent) :
    execCStopreq s = .next { s with cancel := true } := by
  obtain h | h | h := running_or_ended_of_ne_absent h <;> simp [execCStopreq, h]

theorem execCStopreq_of_absent {s : State} (h : s.life = .absent) : execCStopreq s = .refused .noEngine := by
  simp [execCStopreq, h]

/-- C.JOIN of a running engine stays in progress (log 4). -/
theorem execCJoin_of_running {s : State} (h : s.life = .running) : execCJoin s = .next (s.callerContinues [.join]) := by
  simp [execCJoin, h]

theorem execCJoin_of_absent {s : State} (h : s.life = .absent) : execCJoin s = .refused .noEngine := by
  simp [execCJoin, h]

/-- C.DROP of a running engine asks it to stop and leaves the rest of its sequence in progress (log 4). -/
theorem execCDrop_of_running {s : State} (h : s.life = .running) :
    execCDrop s = .next (({ s with cancel := true } : State).callerContinues [.join, .drop]) := by
  simp [execCDrop, h]

theorem execCDrop_of_ended {s : State} (h : s.life = .stopped ∨ s.life = .terminated) :
    execCDrop s =
      .next { s.clearDecoder with fq := [], cancel := false, portOwner := .external, life := .absent } := by
  obtain h | h := h <;> simp [execCDrop, h]

theorem execCDrop_of_absent {s : State} (h : s.life = .absent) : execCDrop s = .refused .noEngine := by
  simp [execCDrop, h]

theorem execCFlush_of_absent {s : State} (h : s.life = .absent) : execCFlush s = .refused .noEngine := by
  simp [execCFlush, h]

theorem execQPop_of_cons {s : State} {f : Frame} {q : List Frame} (hl : s.life ≠ .absent) (hq : s.fq = f :: q) :
    execQPop s = .next (({ s with fq := q } : State).handOver (.frame f)) := by
  obtain h | h | h := running_or_ended_of_ne_absent hl <;> simp [execQPop, h, hq]

theorem execQPop_of_empty_of_running {s : State} (hl : s.life = .running) (hq : s.fq = []) :
    execQPop s = .next (s.handOver .empty) := by
  simp [execQPop, hl, hq]

theorem execQPop_of_empty_of_ended {s : State} (hl : s.life = .stopped ∨ s.life = .terminated) (hq : s.fq = []) :
    execQPop s = .next (s.handOver .closed) := by
  obtain hl | hl := hl <;> simp [execQPop, hl, hq]

theorem execQPop_of_absent {s : State} (h : s.life = .absent) : execQPop s = .refused .noEngine := by
  simp [execQPop, h]

/-! ### Which operation is enabled when -/

/-- RX.STOPACK is enabled where the engine runs with the flag set (42_receiver R134). -/
theorem execRxStopack_enabled_iff {s : State} : (∃ t, execRxStopack s = .next t) ↔ s.canStop = true :=
  ⟨fun ⟨_, h⟩ => (execRxStopack_next h).1, fun h => ⟨_, execRxStopack_of_canStop h⟩⟩

theorem execCStopreq_enabled_iff {s : State} : (∃ t, execCStopreq s = .next t) ↔ s.life ≠ .absent :=
  ⟨fun ⟨_, h⟩ => (execCStopreq_next h).1, fun h => ⟨_, execCStopreq_of_ne_absent h⟩⟩

/-- C.JOIN is refused of an absent engine only: a running one it waits for, an ended one it joins (42_receiver R137). -/
theorem execCJoin_enabled_iff {s : State} : (∃ t, execCJoin s = .next t) ↔ s.life ≠ .absent := by
  refine ⟨fun ⟨t, ht⟩ ha => ?_, fun h => ?_⟩
  · rw [execCJoin_of_absent ha] at ht
    cases ht
  · obtain hl | hl := running_or_ended_of_ne_absent h
    · exact ⟨_, execCJoin_of_running hl⟩
    · exact ⟨_, execCJoin_of_ended hl⟩

/-- C.DROP is refused of an absent engine only: a running one it first asks to stop (42_receiver R138). -/
theorem execCDrop_enabled_iff {s : State} : (∃ t, execCDrop s = .next t) ↔ s.life ≠ .absent := by
  refine ⟨fun ⟨t, ht⟩ ha => ?_, fun h => ?_⟩
  · rw [execCDrop_of_absent ha] at ht
    cases ht
  · obtain hl | hl := running_or_ended_of_ne_absent h
    · exact ⟨_, execCDrop_of_running hl⟩
    · exact ⟨_, execCDrop_of_ended hl⟩

theorem execCFlush_enabled_iff {s : State} : (∃ t, execCFlush s = .next t) ↔ s.life ≠ .absent :=
  ⟨fun ⟨_, h⟩ => (execCFlush_next h).1, fun h => ⟨_, execCFlush_of_ne_absent h⟩⟩

/-- Q.POP of an engine that exists answers in every case (42_receiver R140). -/
theorem execQPop_enabled_iff {s : State} : (∃ t, execQPop s = .next t) ↔ s.life ≠ .absent := by
  refine ⟨fun ⟨_, h⟩ => (execQPop_next h).1, fun h => ?_⟩
  rcases hq : s.fq with _ | ⟨f, q⟩
  · obtain hl | hl := running_or_ended_of_ne_absent h
    · exact ⟨_, execQPop_of_empty_of_running hl hq⟩
    · exact ⟨_, execQPop_of_empty_of_ended hl hq⟩
  · exact ⟨_, execQPop_of_cons h hq⟩

theorem Emits.enabled_iff {e : CallerEvent} {o o' : Bool} {w : List Byte} (he : Emits e o o' w) {s : State} :
    (∃ t, exec (decode (.caller e)) s = .next t) ↔ s.txOpen = o :=
  ⟨fun ⟨_, h⟩ => (he.exec_next h).1, fun h => ⟨_, he.exec_of_eq h⟩⟩

/-- Whether an event of the encoder port has a step depends on TX_OPEN alone (41_encoder R115, R126). -/
theorem Emits.enabled_congr {e : CallerEvent} {o o' : Bool} {w : List Byte} (he : Emits e o o' w) {s s' : State}
    (h : s.txOpen = s'.txOpen) :
    (∃ t, exec (decode (.caller e)) s = .next t) ↔ ∃ t, exec (decode (.caller e)) s' = .next t := by
  rw [he.enabled_iff, he.enabled_iff, h]

/-! ### The reader other than the engine -/

theorem outsiderReads_of_block {s : State} (h : s.portOwner = .block) (n : Nat) :
    outsiderReads n s = .refused .secondReader := by
  simp [outsiderReads, h]

theorem outsiderReads_of_external {s : State} (h : s.portOwner = .external) (n : Nat) :
    outsiderReads n s = .next { s with rxIn := s.rxIn.drop n } :=
  outsiderReads_eq_next.mpr ⟨h, rfl⟩

/-! ### Stopping and dropping a running engine -/

theorem step_stopReq_of_ne_absent {s : State} {ts : List Turn} {es : List CallerEvent} (ht : s.turns = .caller :: ts)
    (hc : s.callerOps = .stopReq :: es) (hl : s.life ≠ .absent) :
    step s = .next { s with cancel := true, callerOps := es, turns := ts } :=
  (step_caller ht hc).trans (execCStopreq_of_ne_absent (s := { s with turns := ts, callerOps := es }) hl)

theorem step_drop_of_running {s : State} {ts : List Turn} {es : List CallerEvent} (ht : s.turns = .caller :: ts)
    (hc : s.callerOps = .drop :: es) (hl : s.life = .running) :
    step s = .next { s with cancel := true, callerOps := .join :: .drop :: es, turns := ts } :=
  (step_caller ht hc).trans (execCDrop_of_running (s := { s with turns := ts, callerOps := es }) hl)

theorem step_drop_of_ended {s : State} {ts : List Turn} {es : List CallerEvent} (ht : s.turns = .caller :: ts)
    (hc : s.callerOps = .drop :: es) (hl : s.life = .stopped ∨ s.life = .terminated) :
    step s = .next { s.clearDecoder with fq := [], cancel := false, portOwner := .external, life := .absent,
                                         callerOps := es, turns := ts } :=
  (step_caller ht hc).trans (execCDrop_of_ended (s := { s with turns := ts, callerOps := es }) hl)

theorem step_start_of_absent {s : State} {ts : List Turn} {es : List CallerEvent} (ht : s.turns = .caller :: ts)
    (hc : s.callerOps = .start :: es) (hl : s.life = .absent) (hp : s.portOwner = .external) :
    step s = .next { s.clearDecoder with fq := [], elog := [], cancel := false, portOwner := .block, life := .running,
                                         callerOps := es, turns := ts } :=
  (step_caller ht hc).trans (execCStart_of_absent (s := { s with turns := ts, callerOps := es }) hl hp)

/-- A run begins with the C.JOIN and the C.DROP of an engine asked to stop: `k` turns of the caller pass, the engine
acknowledges, and the caller's two operations complete; the rest of the run is left (42_receiver R138, R143). -/
theorem runSteps_join_drop_stopping {k : Nat} {s : State} {es : List CallerEvent} {ts : List Turn} (n : Nat)
    (hl : s.life = .running) (hc : s.cancel = true) (hj : s.callerOps = .join :: .drop :: es)
    (ht : s.turns = List.replicate k .caller ++ (.ack :: .caller :: .caller :: ts)) :
    runSteps (k + (n + 3)) s =
      runSteps n { s with life := .absent, portOwner := .external, openF := false, escf := false, buf := [], fq := [],
                          cancel := false, callerOps := es, turns := ts } :=
  (runSteps_join_stopping (n + 1) hl hc hj ht).trans
    (runSteps_succ_of_step (step_drop_of_ended rfl rfl (.inl rfl)))

/-! ### The obligations -/

/-- Settles O21, by the three results of `decode_step`: a store, a store and a push, an error; the placed answer is what
the engine's turn fetches. -/
theorem byteIsTakenAndDecoded : Obligations.ByteIsTakenAndDecoded := by
  intro s b hl hp hf hq hr
  have hread := canRead_iff.mpr ⟨hl, hp⟩
  refine ⟨?_, fun ts as ht ha => step_engine ht ha hread⟩
  rcases hd : decodeStep b s.openF s.escf s.buf with ⟨o, x, u, _ | f⟩ | k
  · exact (execRxByte_of_stored hread hd).trans (storeDecoder_of_decodeStep hf hd)
  · refine (execRxByte_of_completed hread hd).trans ?_
    rw [storeDecoder_of_decodeStep hf hd, andThen_next]
    exact fqPush_eq_next.mpr ⟨hq, rfl⟩
  · exact (execRxByte_of_error hread hd).trans (framingError_of_consumed_or_ne_delim hr)

/-- Settles O31, clause by clause from when each operation is enabled; the encoder's depend on TX_OPEN alone. -/
theorem enablednessByLife : Obligations.EnablednessByLife := by
  refine ⟨fun s b h => ?_, fun s h => execRxStopack_refused (canStop_eq_false h), fun s b hl hp hc => ?_,
    fun s hl => execCStart_refused fun h => hl h.1, fun s hl hp => ⟨_, execCStart_of_absent hl hp⟩,
    fun s => ?_, fun s l e hport => ?_⟩
  · have hr := canRead_eq_false h
    exact ⟨execRxByte_refused hr b, execRxIdle_refused hr, execRxIoerr_refused hr⟩
  · have hr := canRead_iff.mpr ⟨hl, hp⟩
    exact ⟨⟨_, execRxByte_eq_feed hr hc b⟩, ⟨_, execRxIdle_of_canRead hr⟩, ⟨_, execRxIoerr_of_canRead hr⟩,
      execRxStopack_enabled_iff.trans (canStop_iff.trans (and_iff_right hl))⟩
  · exact ⟨execCStopreq_enabled_iff, execCJoin_enabled_iff, execCDrop_enabled_iff, execCFlush_enabled_iff,
      execQPop_enabled_iff⟩
  · cases e with
    | frameStart => exact Emits.start.enabled_congr rfl
    | payload b => exact (Emits.payload b).enabled_congr rfl
    | frameFinish => exact Emits.finish.enabled_congr rfl
    | start | stopReq | join | drop | flush | pop => exact hport.elim

/-- Settles O32: only the effects of C.START, RX.STOPACK, RX.IOERR and C.DROP of an ended engine write LIFE. -/
theorem lifeTransitions : Obligations.LifeTransitions := by
  intro i s t h hne
  cases exec_effect h with
  | start hl => exact .inl ⟨hl, rfl, rfl⟩
  | stopAck hs =>
    obtain ⟨hl, hc⟩ := canStop_iff.mp hs
    exact .inr (.inl ⟨hl, rfl, rfl, hc⟩)
  | ioError hr => exact .inr (.inr (.inl ⟨(canRead_iff.mp hr).1, rfl, rfl⟩))
  | drop hl =>
    obtain hl | hl := hl
    · exact .inr (.inr (.inr (.inl ⟨hl, rfl, rfl⟩)))
    · exact .inr (.inr (.inr (.inr ⟨hl, rfl, rfl⟩)))
  | kept hb => exact absurd hb.life hne
  | flush _ hu => obtain rfl | rfl := hu <;> exact absurd rfl hne
  | decoder | push | framingError | emit | stopReq | join | dropRunning | popFrame | popNothing => exact absurd rfl hne

/-- Settles O47: the C.DROP asks the engine to stop, and its C.JOIN and C.DROP then complete. -/
theorem dropOfARunningEngineStopsItFirst : Obligations.DropOfARunningEngineStopsItFirst := by
  intro k s es ts hl hd ht
  rw [runSteps_succ_of_step (step_drop_of_running ht hd hl)]
  exact runSteps_join_drop_stopping 0 hl rfl rfl rfl

/-- Settles O48: the C.STOPREQ asks the engine to stop, the C.JOIN and the C.DROP complete, and the C.START finds no
engine and the port free. -/
theorem replaceGivesAFreshEngine : Obligations.ReplaceGivesAFreshEngine := by
  intro k s es ts hl hops ht
  have hexists : s.life ≠ .absent := by simp [hl]
  rw [runSteps_succ_of_step (step_stopReq_of_ne_absent ht hops hexists)]
  refine (runSteps_join_drop_stopping 1 ?_ rfl rfl rfl).trans ?_
  · exact hl
  · exact runSteps_succ_of_step (step_start_of_absent rfl rfl rfl rfl)

/-- Settles O2: the next state where C.START is enabled, the refusal where it is not. -/
theorem startConstructsEngine : Obligations.StartConstructsEngine :=
  ⟨fun _ => execCStart_of_absent, fun _ => execCStart_refused⟩

/-- Settles O23: each step of the engine, enabled. -/
theorem engineStepsWithoutAByte : Obligations.EngineStepsWithoutAByte :=
  ⟨fun _ hl hp => execRxIdle_of_canRead (canRead_iff.mpr ⟨hl, hp⟩),
    fun _ hl hp => execRxIoerr_of_canRead (canRead_iff.mpr ⟨hl, hp⟩),
    fun _ hl hc => execRxStopack_of_canStop (canStop_iff.mpr ⟨hl, hc⟩)⟩

/-- Settles O24, of an engine that exists and of an absent one. -/
theorem stopRequestSetsCancel : Obligations.StopRequestSetsCancel :=
  ⟨fun _ => execCStopreq_of_ne_absent, fun _ => execCStopreq_of_absent⟩

/-- Settles O25, of an engine that has ended, one that runs and an absent one. -/
theorem joinTakesThePortOrWaits : Obligations.JoinTakesThePortOrWaits :=
  ⟨fun _ => execCJoin_of_ended, fun _ => execCJoin_of_running, fun _ => execCJoin_of_absent⟩

/-- Settles O26, of an engine that has ended, one that runs and an absent one. -/
theorem dropDestroysTheEngine : Obligations.DropDestroysTheEngine :=
  ⟨fun _ => execCDrop_of_ended, fun _ => execCDrop_of_running, fun _ => execCDrop_of_absent⟩

/-- Settles O27: how much of RX_IN is discarded is the free value the channel draws. -/
theorem flushEmptiesThePipeline : Obligations.FlushEmptiesThePipeline := by
  refine ⟨fun s hl hc => ⟨Config.freeDiscard s.draws, s.draws + 1, (execCFlush_of_ne_absent hl).trans ?_⟩,
    fun _ => execCFlush_of_absent⟩
  rw [hc]
  rfl

/-- Settles O29: a queued frame, an empty queue of a running engine and of an ended one, and no engine. -/
theorem popAnswersFrameEmptyOrClosed : Obligations.PopAnswersFrameEmptyOrClosed :=
  ⟨fun _ _ _ => execQPop_of_cons, fun _ => execQPop_of_empty_of_running, fun _ => execQPop_of_empty_of_ended,
    fun _ => execQPop_of_absent⟩

/-- Settles O35: the reader's turn is a read by an outsider, which asks who owns the port. -/
theorem secondReaderIsRefused : Obligations.SecondReaderIsRefused := fun s n ts ht =>
  ⟨fun hp => (step_of_turn ht).trans (outsiderReads_of_block (s := { s with turns := ts }) hp n),
    fun hp => (step_of_turn ht).trans (outsiderReads_of_external (s := { s with turns := ts }) hp n)⟩

end Sys2Proof.Machine

/-!
PROOFS. Exceptions (60_exceptions): after a framing error the decoder is between frames, where each byte is one error until
a delimiter opens the next frame.
-/

namespace Sys2Proof.Machine

theorem decodeStep_badEscape {b : Byte} (hd : b ≠ SUB_DELIM) (he : b ≠ SUB_ESC) (u : List Byte) :
    decodeStep b true true u = .err .invalidEscape := by
  simp [decodeStep, hd, he]

/-- In mode ESCAPE a byte that completes no escape sequence is one error, and the frame in progress is lost
(40_decoder R98). -/
theorem feed_badEscape {b : Byte} (hd : b ≠ SUB_DELIM) (he : b ≠ SUB_ESC) (u : List Byte) (q : List Frame)
    (e : List Report) (bs : List Byte) :
    feed (true, true, u) q e (b :: bs) = feed Regs.start q (e ++ [.invalidEscape]) bs :=
  feed_cons_of_error q e bs (decodeStep_badEscape hd he u)

/-- Between frames, noise and then a delimiter: one error per byte of noise, and the delimiter opens a frame
(60_exceptions R165). -/
theorem feed_noise_open {n : List Byte} (hn : DELIM ∉ n) (q : List Frame) (e : List Report) (bs : List Byte) :
    feed Regs.start q e (n ++ DELIM :: bs) =
      feed (true, false, [DELIM]) q (e ++ List.replicate n.length .unexpectedByte) bs :=
  (feed_noise hn q e (DELIM :: bs)).trans (feed_open ..)

/-- Settles O59: the illegal byte puts the decoder between frames, where noise and then a delimiter open a new frame. -/
theorem resynchronisesOnTheNextDelimiter : Obligations.ResynchronisesOnTheNextDelimiter := by
  intro b u n q e hd he hn
  calc feed (true, true, u) q e (b :: (n ++ [DELIM]))
      _ = feed Regs.start q (e ++ [.invalidEscape]) (n ++ [DELIM]) := feed_badEscape hd he ..
      _ = ((true, false, [DELIM]), q, e ++ [.invalidEscape] ++ List.replicate n.length .unexpectedByte) :=
        feed_noise_open hn ..
      _ = ((true, false, [DELIM]), q, e ++ .invalidEscape :: List.replicate n.length .unexpectedByte) := by
        rw [List.append_assoc, List.singleton_append]

end Sys2Proof.Machine

/-!
PROOFS. Reset and hazards (70_reset_and_hazards): what an encoded payload does to a decoder that is not between frames, where
each of its delimiters plays the other's part, and what a delimiter that two frames share does.
-/

namespace Sys2Proof.Machine

/-- In mode BODY the opening delimiter closes the stale frame, the escaped payload is noise, and the closing delimiter opens
the next stale frame (70_reset_and_hazards R196). -/
theorem feed_encodePayload_stale (u p : List Byte) (q : List Frame) (e : List Report) (bs : List Byte) :
    feed (true, false, u) q e (encodePayload p ++ bs) =
      feed (true, false, [DELIM]) (q ++ [u ++ [DELIM]])
        (e ++ List.replicate (escapeBody p).length .unexpectedByte) bs :=
  calc feed (true, false, u) q e (encodePayload p ++ bs)
      _ = feed Regs.start (q ++ [u ++ [DELIM]]) e (escapeBody p ++ DELIM :: bs) := by
        rw [encodePayload, List.cons_append, List.append_assoc]; exact feed_close ..
      _ = feed (true, false, [DELIM]) (q ++ [u ++ [DELIM]])
            (e ++ List.replicate (escapeBody p).length .unexpectedByte) bs :=
        feed_noise_open (DELIM_notMem_escapeBody p) ..

/-- Once the stale frame is a lone delimiter, each encoded payload completes an empty frame and leaves a lone delimiter
again (70_reset_and_hazards R196). -/
theorem feed_encodePayloads_stale (ps : List (List Byte)) (q : List Frame) (e : List Report) :
    feed (true, false, [DELIM]) q e (ps.flatMap encodePayload) =
      ((true, false, [DELIM]), q ++ List.replicate ps.length [DELIM, DELIM],
        e ++ List.replicate (ps.map fun p => (escapeBody p).length).sum .unexpectedByte) := by
  induction ps generalizing q e with
  | nil => simp [feed]
  | cons p ps ih =>
    rw [List.flatMap_cons, feed_encodePayload_stale, ih, List.append_assoc, List.append_assoc,
      List.replicate_append_replicate]
    rfl

/-- Settles O57: the first frame is delivered, and what is left is noise and a delimiter between frames. -/
theorem noSharedDelimiter : Obligations.NoSharedDelimiter := by
  intro p b q e hb
  calc feed Regs.start q e (encodePayload p ++ b ++ [DELIM])
      _ = feed Regs.start (q ++ [frameOf p]) e (b ++ [DELIM]) := by
        rw [List.append_assoc]; exact feed_encodePayload ..
      _ = ((true, false, [DELIM]), q ++ [frameOf p], e ++ List.replicate b.length .unexpectedByte) :=
        feed_noise_open hb ..

/-- Settles O58: the first payload closes the stale frame it finds, and every later one the lone delimiter before it. -/
theorem phaseInversionPersists : Obligations.PhaseInversionPersists := by
  intro u p ps q e
  rw [List.flatMap_cons, feed_encodePayload_stale, feed_encodePayloads_stale, List.append_assoc, List.append_assoc,
    List.replicate_append_replicate]
  rfl

/-- Settles O60: from mode BODY one stale frame is closed; from mode ESCAPE the opening delimiter is the offending byte of
O59, and the escaped payload is the noise after it. -/
theorem roundTripNeedsIdle : Obligations.RoundTripNeedsIdle := by
  intro u p q e
  constructor
  · have h := feed_encodePayload_stale u p q e []
    rwa [List.append_nil] at h
  · exact resynchronisesOnTheNextDelimiter DELIM u (escapeBody p) q e DELIM_ne_SUB_DELIM DELIM_ne_SUB_ESC
      (DELIM_notMem_escapeBody p)

end Sys2Proof.Machine
